-- ==== Sys2Proof/Word.lean ====
section
/-! DEFINITION. The word types of the block (00_scope.md R7, R8): every value is unsigned. -/

namespace Sys2Proof

/-- An 8-bit unsigned value: a V register, a timer, a memory byte (`u8`, R8). -/
abbrev Byte := BitVec 8

/-- A 16-bit unsigned value: `I`, `pc`, a stack entry, an instruction word (`u16`, R8). -/
abbrev Word := BitVec 16

/-- A 4-bit field of an instruction word (R7). -/
abbrev Nibble := BitVec 4

/-- The index of a general register V0-VF: a 4-bit `x` or `y` field (30_encoding.md R72). -/
abbrev Reg := BitVec 4

/-- A 12-bit address field `nnn` (R72). -/
abbrev Addr12 := BitVec 12

/-- `zext_16` (R8): widen with zeros to 16 bits. -/
abbrev zext16 {n : Nat} (v : BitVec n) : Word := v.setWidth 16

end Sys2Proof
end

