-- ==== Sys2Proof/Config.lean ====
section
/-! DEFINITION. The implementation parameters of 00_scope.md R5, the host's answers of 40_cycle.md R120, and the values that the spec leaves free. -/

namespace Sys2Proof

/-- `MEM_SIZE` (R5). -/
abbrev memSize : Nat := 4096
/-- `PC_START` and `PROG_BASE` (R5). -/
abbrev progBase : Nat := 0x200
/-- `FONT_BASE` (R5). -/
abbrev fontBase : Nat := 0x050
/-- The first address after the 80 glyph bytes (R5: 0x050-0x09F). -/
abbrev fontEnd : Nat := 0x0A0
/-- `GLYPH_BYTES` (R5). -/
abbrev glyphBytes : Nat := 5
/-- `ROM_MAX` (R5). -/
abbrev romMax : Nat := 0xE00

/-- One built-in hex-digit sprite: 5 bytes (R5, 10_state.md R40). -/
abbrev Glyph := Vector Byte 5

/-- The parameter `FONT`: 16 glyphs, glyph `g` at 0x050 + 5g (R5, R40). -/
abbrev Font := Vector Glyph 16

/-- The parameter `UNWRITTEN_READ` (R5, 10_state.md R39). -/
inductive UnwrittenRead where
  | zero
  | fault
  deriving DecidableEq, Repr, Inhabited

/-- The four implementation parameters that the spec leaves OPEN (R5). They are held in the state and no
step changes them, so a statement about every state holds for every value of each (log 1). -/
structure Config where
  font          : Font
  /-- `TICK_PERIOD`: host-time units in one timer tick (45_timers_keys.md R231). -/
  tickPeriod    : Nat
  /-- `DRAW_SETS_VF` (44_display.md R205). -/
  drawSetsVF    : Bool
  unwrittenRead : UnwrittenRead
  deriving DecidableEq, Repr, Inhabited

/-- The default `FONT`, glyphs 0-7 (R40). PRESUMED by the spec itself (general knowledge). -/
def Config.defaultGlyphsLow : Vector Glyph 8 :=
  #v[#v[0xF0, 0x90, 0x90, 0x90, 0xF0], #v[0x20, 0x60, 0x20, 0x20, 0x70],
     #v[0xF0, 0x10, 0xF0, 0x80, 0xF0], #v[0xF0, 0x10, 0xF0, 0x10, 0xF0],
     #v[0x90, 0x90, 0xF0, 0x10, 0x10], #v[0xF0, 0x80, 0xF0, 0x10, 0xF0],
     #v[0xF0, 0x80, 0xF0, 0x90, 0xF0], #v[0xF0, 0x10, 0x20, 0x40, 0x40]]

/-- The default `FONT`, glyphs 8-F (R40). -/
def Config.defaultGlyphsHigh : Vector Glyph 8 :=
  #v[#v[0xF0, 0x90, 0xF0, 0x90, 0xF0], #v[0xF0, 0x90, 0xF0, 0x10, 0xF0],
     #v[0xF0, 0x90, 0xF0, 0x90, 0x90], #v[0xE0, 0x90, 0xE0, 0x90, 0xE0],
     #v[0xF0, 0x80, 0x80, 0x80, 0xF0], #v[0xE0, 0x90, 0x90, 0x90, 0xE0],
     #v[0xF0, 0x80, 0xF0, 0x80, 0xF0], #v[0xF0, 0x80, 0xF0, 0x80, 0x80]]

/-- The default `FONT` (R40). -/
def Config.defaultFont : Font := Config.defaultGlyphsLow ++ Config.defaultGlyphsHigh

/-- One less than the machine's `TICK_PERIOD`. FREE VALUE: the spec leaves the period open (R5, D21),
so nothing constrains it but that it is positive (log 1). -/
opaque Config.tickPeriodPred : Nat

/-- The parameters at the spec's defaults; `TICK_PERIOD` has none and is free (log 1). -/
def Config.default : Config where
  font := Config.defaultFont
  tickPeriod := Config.tickPeriodPred + 1
  drawSetsVF := false
  unwrittenRead := .zero

/-- A logical key 0x0-0xF (40_cycle.md R120). -/
abbrev Key := BitVec 4

/-- The host's answers during one step (40_cycle.md R120), each a draw: the model admits every answer.
Host time never decreases (D22), so each read of `now()` is given as the time elapsed since the read
before it. A step reads `now()` at most once in each of three places (R107, R231). -/
structure HostInputs where
  /-- Host time elapsed at the read of a timer start (45_timers_keys.md R230). -/
  startElapsed : Nat
  /-- Host time elapsed at the delay timer's read of the timer update (R231). -/
  delayElapsed : Nat
  /-- Host time elapsed at the sound timer's read of the timer update (R231). -/
  soundElapsed : Nat
  /-- `pressed(k)` for each logical key. -/
  pressed      : Vector Bool 16
  /-- `key_down_event()`. -/
  keyDown      : Option Key
  /-- `quit_requested()`. -/
  quit         : Bool
  /-- `random_byte()`: a byte, or failure. -/
  random       : Option Byte
  deriving DecidableEq, Repr, Inhabited

/-- The answers of a host that has nothing to say: no time passes, no key is down, no quit, random byte 0.
Only tests and witnesses name it. -/
def HostInputs.quiet : HostInputs where
  startElapsed := 0
  delayElapsed := 0
  soundElapsed := 0
  pressed := Vector.replicate 16 false
  keyDown := none
  quit := false
  random := some 0

/-- The host's answers where no claim fixes them. FREE VALUE: nothing constrains it (log 3). -/
opaque Config.freeHost : Nat → HostInputs

/-- Host time at construction. FREE VALUE: nothing constrains it (10_state.md R37, log 3). -/
opaque Config.startTime : Nat

end Sys2Proof
end

