-- ==== Sys2Proof/Machine/State.lean ====
section
/-! DEFINITION. The architectural state as plain data (10_state.md R20-R40), the ways a step can stop, and the state at execution start (R37). -/

namespace Sys2Proof.Machine

/-- The fatal `ExecutionError` codes (60_exceptions.md R251). Raising one is a next state (R252). -/
inductive ErrorCode where
  | fetchOutOfRange
  | addressOutOfRange
  | stackOverflow
  | stackUnderflow
  | rngFailure
  | unwrittenRead
  deriving DecidableEq, Repr

/-- The record of mode Faulted: code, instruction address, word if one was fetched (R252). -/
structure FaultRecord where
  code : ErrorCode
  addr : Word
  word : Option Word
  deriving DecidableEq, Repr

/-- The sequencer's mode (10_state.md R32, 40_cycle.md R110). -/
inductive Mode where
  | running
  | awaitingKey (x : Reg)
  | halted
  | faulted (r : FaultRecord)
  deriving DecidableEq, Repr

/-- The two timers (40_cycle.md R106). -/
inductive TimerName where
  | delay
  | sound
  deriving DecidableEq, Repr

/-- The executor's return signal (40_cycle.md R106). `cont` is the spec's `Continue`. -/
inductive Signal where
  | cont
  | halt
  | timerStarted (t : TimerName)
  | awaitKey (x : Reg)
  | skipIfPressed (k : Byte)
  | skipIfNotPressed (k : Byte)
  deriving DecidableEq, Repr

/-- The framebuffer: 32 rows of 64 pixels, `true` = on (10_state.md R33). -/
abbrev Framebuffer := Vector (Vector Bool 64) 32

/-- The framebuffer with every pixel off (R37, 44_display.md R200). -/
def blankFb : Framebuffer := Vector.replicate 32 (Vector.replicate 64 false)

/-- The output events (40_cycle.md R121). -/
inductive Event where
  /-- A snapshot of all pixels (44_display.md R204). -/
  | render (fb : Framebuffer)
  | toneStart
  | toneStop
  /-- An unrecognized word and its address (30_encoding.md R79). -/
  | diagnostic (addr w : Word)
  /-- A fatal error (60_exceptions.md R252). -/
  | fault (r : FaultRecord)
  deriving DecidableEq, Repr

/-- Memory: the bytes that differ from the machine's reset contents, by rising address
(20_memory.md R51; `Memory.unlisted` says what every other address reads as). -/
abbrev Memory := List Host.Cell

/-- What has been written since execution start (10_state.md R39): only the parameter
`UNWRITTEN_READ = fault` reads it. One bit for each V register and for `I`, and the written memory
addresses, rising. -/
structure Written where
  V   : Vector Bool 16
  I   : Bool
  mem : List Nat
  deriving DecidableEq, Repr

/-- The state aggregate of 10_state.md R20, with the names the spec gives its parts. -/
structure State where
  /-- R36. -/
  mem      : Memory
  /-- V0-VF (R21). -/
  V        : Vector Byte 16
  /-- The address register (R24). -/
  I        : Word
  /-- The program counter (R25). -/
  pc       : Word
  /-- The stack pointer, 0-15: how many calls are outstanding (R27). -/
  sp       : Fin 16
  /-- The return addresses (R28). -/
  stack    : Vector Word 16
  /-- The delay timer (R29). -/
  DT       : Byte
  /-- The sound timer (R29). -/
  ST       : Byte
  /-- Host time of the delay timer's last change (R30). -/
  anchorDT : Nat
  /-- Host time of the sound timer's last change (R30). -/
  anchorST : Nat
  /-- Has the host been told to sound the tone? (R31) -/
  toneOn   : Bool
  /-- R32. -/
  mode     : Mode
  /-- R33. -/
  fb       : Framebuffer
  /-- R39. -/
  written  : Written
  /-- The fetched word of the current cycle, none between cycles (R35). -/
  fetched  : Option Word
  /-- The signal the executor returned in the current cycle, none between cycles and after an error
  (40_cycle.md R104). -/
  signal   : Option Signal
  /-- The events of the latest step, in order (40_cycle.md R121). -/
  events   : List Event
  /-- The implementation parameters (00_scope.md R5); no step changes them. -/
  cfg      : Config
  /-- MODEL's field: the host time most recently read (40_cycle.md R120, log 3). -/
  clock    : Nat
  /-- MODEL's field: the host's answers in the coming step (R120, log 3). -/
  port     : HostInputs
  /-- MODEL's field: the host's answers in the steps after it, as far as they are fixed (log 3). -/
  script   : List HostInputs
  /-- MODEL's field: how many free answers have been drawn (log 3). -/
  drawn    : Nat
  deriving DecidableEq, Repr

/-- How a step can stop the machine. -/
inductive Fault where
  /-- Raised by `step` alone, in mode Faulted: "Mode Faulted has no step" (40_cycle.md R113). Safe: the
  run is over, and the state with its record was the last next state. -/
  | noStep (r : FaultRecord)
  deriving DecidableEq, Repr

/-- Why an instruction has no meaning. -/
inductive Refusal where
  /-- An arm of `exec` without a meaning would answer this. Safe: nothing is claimed. No arm does. -/
  | notModelled (mnemonic : String)
  deriving DecidableEq, Repr

/-- Startup errors: there is no state to observe (60_exceptions.md R255). -/
inductive StartupError where
  | configNoRom
  | ioRomUnreadable
  | configRomTooLarge
  deriving DecidableEq, Repr

/-- The state at execution start with no ROM byte loaded, for the parameters `cfg`, at host time `t0`, for
a host that answers `port` in the first step and `script` after it (10_state.md R37,
70_reset_and_hazards.md R280). -/
def State.initial (cfg : Config) (t0 : Nat) (port : HostInputs) (script : List HostInputs) : State where
  mem := []
  V := Vector.replicate 16 0
  I := 0
  pc := 0x200
  sp := 0
  stack := Vector.replicate 16 0
  DT := 0
  ST := 0
  anchorDT := t0
  anchorST := t0
  toneOn := false
  mode := .running
  fb := blankFb
  written := { V := Vector.replicate 16 false, I := false, mem := [] }
  fetched := none
  signal := none
  events := []
  cfg := cfg
  clock := t0
  port := port
  script := script
  drawn := 1

/-- The machine right after reset (R37): the default parameters, and a host that nothing constrains. -/
def State.reset : State :=
  State.initial Config.default Config.startTime (Config.freeHost 0) []

end Sys2Proof.Machine
end

