-- ==== Sys2Proof/Machine/Ops.lean ====
section
/-! DEFINITION. The named operations over memory, registers, the stack and events, and raising an `ExecutionError`. -/

namespace Sys2Proof.Machine

/-- Is `a` in the glyph area 0x050-0x09F? (20_memory.md R51) -/
def inGlyphs (a : Nat) : Bool := fontBase ≤ a && a < fontEnd

/-- The byte of `FONT` at address `a` of the glyph area: glyph `g` at 0x050 + 5g (10_state.md R40). -/
def glyphByte (font : Font) (a : Nat) : Byte :=
  (font[(a - fontBase) / glyphBytes]?.bind (·[(a - fontBase) % glyphBytes]?)).getD 0

/-- What an unlisted address reads as: the reset contents, the glyphs and 0x00 elsewhere (R37, R51). -/
def Memory.unlisted (font : Font) (a : Nat) : Byte :=
  if inGlyphs a then glyphByte font a else 0

/-- The byte at `a`. -/
def Memory.read (font : Font) : Memory → Nat → Byte
  | [], a => Memory.unlisted font a
  | c :: m, a => if c.1 = a then c.2 else Memory.read font m a

/-- Insert a cell before the first cell with a greater address. -/
def Memory.insert (c : Host.Cell) : Memory → Memory
  | [] => [c]
  | d :: m => if c.1 < d.1 then c :: d :: m else d :: Memory.insert c m

/-- Write one byte, keeping the canonical form: a byte equal to the reset contents is not listed. -/
def Memory.write (font : Font) (m : Memory) (a : Nat) (b : Byte) : Memory :=
  let rest := m.filter (fun c => c.1 != a)
  if b = Memory.unlisted font a then rest else Memory.insert (a, b) rest

/-- The canonical form: addresses strictly rising, all of them in memory, and no cell equal to what an
unlisted address reads as. -/
abbrev Memory.wf (font : Font) (m : Memory) : Prop :=
  m.Pairwise (fun c d => c.1 < d.1) ∧ ∀ c ∈ m, c.1 < memSize ∧ c.2 ≠ Memory.unlisted font c.1

/-- `mem[a]` (20_memory.md R55, after its range check: see `runInRange`). -/
def State.byte (s : State) (a : Nat) : Byte := Memory.read s.cfg.font s.mem a

/-- Add an address to a rising list of addresses. -/
def addAddr (a : Nat) : List Nat → List Nat
  | [] => [a]
  | b :: l => if a < b then a :: b :: l else if a = b then b :: l else b :: addAddr a l

/-- `mem[a] <- b` (R56), and the byte counts as written (10_state.md R39). There is no byte above 0xFFF
to write; the instructions check the whole run first (R57). -/
def State.storeByte (s : State) (a : Nat) (b : Byte) : State :=
  if a < memSize then
    { s with
      mem := Memory.write s.cfg.font s.mem a b
      written := { s.written with mem := addAddr a s.written.mem } }
  else s

/-- Store a run of bytes at `a`, `a + 1`, …, one `MemWrite` each in that order (R54, R56). -/
def State.storeBytes (s : State) (a : Nat) : List Byte → State
  | [] => s
  | b :: bs => (s.storeByte a b).storeBytes (a + 1) bs

/-- Read a run of `k` bytes at `a`, `a + 1`, … (R54, R55). -/
def State.loadBytes (s : State) (a k : Nat) : List Byte := (List.range k).map (fun i => s.byte (a + i))

/-- The range check of a run of `k` bytes at `a`: its last address is at most 0xFFF, computed without
wrap; a run of no bytes checks nothing (R57). -/
def runInRange (a k : Nat) : Bool := k = 0 || a + k - 1 ≤ 0xFFF

/-- Has the byte at `a` been written, by an instruction, the program load or construction? (10_state.md
R39; construction writes the glyphs, 70_reset_and_hazards.md R280.) -/
def State.byteWritten (s : State) (a : Nat) : Bool := inGlyphs a || s.written.mem.contains a

/-- `V[r]` (R21). -/
def State.readV (s : State) (r : Reg) : Byte := s.V[r.toNat]'(r.isLt)

/-- `V[r] <- b`, and the register counts as written (R21, R39). -/
def State.writeV (s : State) (r : Reg) (b : Byte) : State :=
  { s with
    V := s.V.set r.toNat b r.isLt
    written := { s.written with V := s.written.V.set r.toNat true r.isLt } }

/-- Has `V[r]` been written? (R39) -/
def State.regWritten (s : State) (r : Reg) : Bool := s.written.V[r.toNat]'(r.isLt)

/-- The V registers with `V[0]` to `V[x]` read from the run of memory bytes at `a`: `V[i] <- mem[a + i]`
for `i` up to `x` (43_index_memory.md R185). -/
def State.loadedV (s : State) (a : Nat) (x : Reg) : Vector Byte 16 :=
  Vector.ofFn fun i => if i.val ≤ x.toNat then s.byte (a + i.val) else s.V[i.val]

/-- `V[0]` to `V[x]` count as written, the others as before (10_state.md R39). -/
def State.markedV (s : State) (x : Reg) : Vector Bool 16 :=
  Vector.ofFn fun i => decide (i.val ≤ x.toNat) || s.written.V[i.val]

/-- Load `V[0]` to `V[x]` from the run of memory bytes at `a` (R185). -/
def State.loadV (s : State) (a : Nat) (x : Reg) : State :=
  { s with V := s.loadedV a x, written := { s.written with V := s.markedV x } }

/-- `I <- v`, and `I` counts as written (R24, R39). -/
def State.writeI (s : State) (v : Word) : State :=
  { s with I := v, written := { s.written with I := true } }

/-- `pc <- target` (00_scope.md R9). -/
def State.jumpTo (s : State) (target : Word) : State := { s with pc := target }

/-- `pc <- pc +16 2` (R8). -/
def State.advance (s : State) : State := s.jumpTo (s.pc + 2)

/-- `A`, the address of the executing instruction: `pc - 2` after the fetch advance
(30_encoding.md R79, 41_flow.md R130). -/
def State.instrAddr (s : State) : Word := s.pc - 2

/-- Push a return address: increment `sp` first, then store at `stack[sp]` (41_flow.md R131). -/
def State.push (s : State) (v : Word) : State :=
  let sp' : Fin 16 := s.sp + 1
  { s with sp := sp', stack := s.stack.set sp'.val v }

/-- The newest return address, `stack[sp]` (10_state.md R27). -/
def State.top (s : State) : Word := s.stack[s.sp.val]

/-- Drop the newest return address: decrement `sp`; the entry is not cleared (R28). -/
def State.pop (s : State) : State := { s with sp := s.sp - 1 }

/-- `emit e`: append to the step's event list (00_scope.md R9, 40_cycle.md R121). -/
def State.emit (s : State) (e : Event) : State := { s with events := s.events ++ [e] }

/-- `sig <- S`: set the executor's return signal (00_scope.md R9, 40_cycle.md R106). -/
def State.returning (s : State) (sig : Signal) : State := { s with signal := some sig }

/-- `raise ExecutionError(code, addr)`: no write but `mode <- Faulted(code, addr, word)` and the `Fault`
event; `pc` keeps its value (60_exceptions.md R252). It returns no signal (40_cycle.md R104). The spec has
no return from it (R254). -/
def State.raiseAt (s : State) (code : ErrorCode) (addr : Word) (word : Option Word) : State :=
  { s with
    mode := .faulted ⟨code, addr, word⟩
    events := s.events ++ [.fault ⟨code, addr, word⟩] }

/-- `raise ExecutionError(code, A)` from an executing instruction: `A` its address, and its word (R252). -/
def State.raise (s : State) (code : ErrorCode) : State := s.raiseAt code s.instrAddr s.fetched

/-- The numeric label of an execution error (R251). -/
def ErrorCode.number : ErrorCode → Nat
  | .fetchOutOfRange => 1
  | .addressOutOfRange => 2
  | .stackOverflow => 3
  | .stackUnderflow => 4
  | .rngFailure => 5
  | .unwrittenRead => 6

/-- The numeric label of a startup error (R251). -/
def StartupError.number : StartupError → Nat
  | .configNoRom => 101
  | .ioRomUnreadable => 102
  | .configRomTooLarge => 103

/-- The numeric label of the non-fatal diagnostic `UNRECOGNIZED_INSTRUCTION` (R251). -/
def unrecognizedNumber : Nat := 201

end Sys2Proof.Machine
end

