-- ==== Sys2Proof/Machine/Flags.lean ====
section
/-! DEFINITION. The flag computations of 42_alu.md R156-R160 and the write of a result with its flag (10_state.md R22). -/

namespace Sys2Proof.Machine

/-- VF, the flag register: `V[15]` (10_state.md R22). -/
abbrev vf : Reg := 0xF#4

/-- A flag value: 1 if the condition holds, else 0. -/
def flagOf (p : Bool) : Byte := if p then 1 else 0

/-- 8xy4: 1 if the untruncated sum passes 255 (R156). -/
def carryFlag (a b : Byte) : Byte := flagOf (255 < a.toNat + b.toNat)

/-- 8xy5 (`a` minus `b`) and 8xy7 with the operands swapped: 1 if the minuend is strictly greater
(R157, R159). -/
def greaterFlag (a b : Byte) : Byte := flagOf (b.toNat < a.toNat)

/-- 8xy6: bit 0, captured before the shift (R158). -/
def lowBitFlag (a : Byte) : Byte := flagOf (a.getLsbD 0)

/-- 8xyE: bit 7, captured before the shift (R160). -/
def highBitFlag (a : Byte) : Byte := flagOf (a.getLsbD 7)

/-- Write a result to `V[x]` and then the flag to VF, so that VF ends holding the flag also for x = 0xF
(R22, 42_alu.md). -/
def State.writeFlagged (s : State) (x : Reg) (result flag : Byte) : State :=
  (s.writeV x result).writeV vf flag

end Sys2Proof.Machine
end

