-- ==== Sys2Proof/Machine/Operands.lean ====
section
/-! DEFINITION. The operand forms: reads of V registers and I under `UNWRITTEN_READ`, runs of memory through I, glyph addresses and decimal digits. -/

namespace Sys2Proof.Machine

/-- May these V registers, and `I` if `readsI`, be read as operands? Only with `UNWRITTEN_READ = fault` is
a read of a register that nothing has written an error (10_state.md R39). -/
def State.operandsReadable (s : State) (rs : List Reg) (readsI : Bool) : Bool :=
  match s.cfg.unwrittenRead with
  | .zero => true
  | .fault => rs.all s.regWritten && (!readsI || s.written.I)

/-- May this run of bytes be read (by fetch, Dxyn or Fx65)? (R39) -/
def State.bytesReadable (s : State) (a k : Nat) : Bool :=
  match s.cfg.unwrittenRead with
  | .zero => true
  | .fault => (List.range k).all (fun i => s.byteWritten (a + i))

/-- Read the operands, then go on with `effect`: an unwritten one is reported before any other error
(60_exceptions.md R257). -/
def State.withOperands (s : State) (rs : List Reg) (readsI : Bool) (effect : State) : State :=
  if s.operandsReadable rs readsI then effect else s.raise .unwrittenRead

/-- Check the run of `k` bytes at `I`, then go on: the check comes before any effect (20_memory.md R57). -/
def State.withRunAtI (s : State) (k : Nat) (effect : State) : State :=
  if runInRange s.I.toNat k then effect else s.raise .addressOutOfRange

/-- Read the run of `k` bytes at `I`, then go on: an unwritten byte is reported after the range check
(60_exceptions.md R257). -/
def State.withBytesAtI (s : State) (k : Nat) (effect : State) : State :=
  if s.bytesReadable s.I.toNat k then effect else s.raise .unwrittenRead

/-- The registers `V[0]` … `V[x]`, in order (43_index_memory.md R184). -/
def regsUpTo (x : Reg) : List Reg := (List.range (x.toNat + 1)).map (BitVec.ofNat 4)

/-- The glyph address of a whole V register value: `0x050 + 5·v`, not masked (R182). -/
def glyphAddr (v : Byte) : Word := 0x0050 + 5 * zext16 v

/-- The three decimal digits of a byte: hundreds, tens, units (R183). -/
def bcdDigits (v : Byte) : List Byte :=
  [BitVec.ofNat 8 (v.toNat / 100), BitVec.ofNat 8 (v.toNat / 10 % 10), BitVec.ofNat 8 (v.toNat % 10)]

end Sys2Proof.Machine
end

