-- ==== Sys2Proof/Machine/Alu.lean ====
section
/-! DEFINITION. The meanings of the register loads, the ALU and the random instruction (42_alu.md R150-R161). Each leaves `pc = A + 2` and returns `Continue`. -/

namespace Sys2Proof.Machine

/-- The outcome of a meaning: every instruction goes on to a next state (an error is one, R252). -/
abbrev Result := Host.Outcome State Fault Refusal

/-- `Continue` with this state (40_cycle.md R106). -/
def State.continued (s : State) : State := s.returning .cont

/-- 6xkk LD Vx, kk (R150). -/
def execLdImm (x : Reg) (kk : Byte) (s : State) : Result :=
  .next (s.writeV x kk).continued

/-- 7xkk ADD Vx, kk: wrapping, no flag (R151). -/
def execAddImm (x : Reg) (kk : Byte) (s : State) : Result :=
  .next (s.withOperands [x] false (s.writeV x (s.readV x + kk)).continued)

/-- 8xy0 LD Vx, Vy (R152). -/
def execLdReg (x y : Reg) (s : State) : Result :=
  .next (s.withOperands [y] false (s.writeV x (s.readV y)).continued)

/-- 8xy1 OR Vx, Vy: VF is not reset (R153). -/
def execOrReg (x y : Reg) (s : State) : Result :=
  .next (s.withOperands [x, y] false (s.writeV x (s.readV x ||| s.readV y)).continued)

/-- 8xy2 AND Vx, Vy (R154). -/
def execAndReg (x y : Reg) (s : State) : Result :=
  .next (s.withOperands [x, y] false (s.writeV x (s.readV x &&& s.readV y)).continued)

/-- 8xy3 XOR Vx, Vy (R155). -/
def execXorReg (x y : Reg) (s : State) : Result :=
  .next (s.withOperands [x, y] false (s.writeV x (s.readV x ^^^ s.readV y)).continued)

/-- 8xy4 ADD Vx, Vy: the sum modulo 256, VF the carry (R156). -/
def execAddReg (x y : Reg) (s : State) : Result :=
  .next (s.withOperands [x, y] false
    (s.writeFlagged x (s.readV x + s.readV y) (carryFlag (s.readV x) (s.readV y))).continued)

/-- 8xy5 SUB Vx, Vy: VF is 1 only if Vx is strictly greater (R157). -/
def execSubReg (x y : Reg) (s : State) : Result :=
  .next (s.withOperands [x, y] false
    (s.writeFlagged x (s.readV x - s.readV y) (greaterFlag (s.readV x) (s.readV y))).continued)

/-- 8xy6 SHR Vx: Vx is shifted, y is ignored (R158). -/
def execShr (x _y : Reg) (s : State) : Result :=
  .next (s.withOperands [x] false
    (s.writeFlagged x (s.readV x >>> 1) (lowBitFlag (s.readV x))).continued)

/-- 8xy7 SUBN Vx, Vy: Vy minus Vx, into Vx (R159). -/
def execSubn (x y : Reg) (s : State) : Result :=
  .next (s.withOperands [x, y] false
    (s.writeFlagged x (s.readV y - s.readV x) (greaterFlag (s.readV y) (s.readV x))).continued)

/-- 8xyE SHL Vx: Vx is shifted, y is ignored (R160). -/
def execShl (x _y : Reg) (s : State) : Result :=
  .next (s.withOperands [x] false
    (s.writeFlagged x (s.readV x <<< 1) (highBitFlag (s.readV x))).continued)

/-- Cxkk RND Vx, kk: the host's random byte masked by kk; a failure of the source is fatal, also for
kk = 0 (R161). -/
def execRnd (x : Reg) (kk : Byte) (s : State) : Result :=
  .next (match s.port.random with
    | some r => (s.writeV x (r &&& kk)).continued
    | none => s.raise .rngFailure)

end Sys2Proof.Machine
end

