-- ==== Sys2Proof/Machine/Display.lean ====
section
/-! DEFINITION. The framebuffer engine: clear and XOR-draw (44_display.md R200-R207). -/

namespace Sys2Proof.Machine

/-- `fb[r][c]` (10_state.md R33). -/
def pixel (fb : Framebuffer) (r : Fin 32) (c : Fin 64) : Bool := fb[r.val][c.val]

/-- `fb[r][c] <- p`. -/
def setPixel (fb : Framebuffer) (r : Fin 32) (c : Fin 64) (p : Bool) : Framebuffer :=
  fb.set r.val (fb[r.val].set c.val p)

/-- The framebuffer row of a number: modulo 32 (R201). -/
def rowOf (n : Nat) : Fin 32 := Fin.ofNat 32 n

/-- The framebuffer column of a number: modulo 64 (R201). -/
def colOf (n : Nat) : Fin 64 := Fin.ofNat 64 n

/-- XOR one sprite bit that is 1: the pixel is inverted, and a pixel that was on is a collision (R202).
The second component is `collided`. -/
def togglePixel (d : Framebuffer × Bool) (r : Fin 32) (c : Fin 64) : Framebuffer × Bool :=
  (setPixel d.1 r c (!pixel d.1 r c), d.2 || pixel d.1 r c)

/-- Column offset `j` of a sprite byte: bit 7 is the leftmost (R203). -/
def spriteBit (b : Byte) (j : Nat) : Bool := b.getLsbD (7 - j)

/-- Draw one sprite byte at row `ry`, column `cx` (R202): columns `cx` to `cx + 7`, each modulo 64. -/
def drawByte (cx ry : Nat) (b : Byte) (d : Framebuffer × Bool) : Framebuffer × Bool :=
  (List.range 8).foldl
    (fun d j => if spriteBit b j then togglePixel d (rowOf ry) (colOf (cx + j)) else d) d

/-- Draw a sprite, one byte for each row from `ry` down (R202). -/
def drawRows (cx ry : Nat) : List Byte → Framebuffer × Bool → Framebuffer × Bool
  | [], d => d
  | b :: bs, d => drawRows cx (ry + 1) bs (drawByte cx ry b d)

/-- 00E0 CLS: every pixel off, and a `Render` (R200). -/
def execCls (s : State) : Result :=
  .next (({ s with fb := blankFb }).emit (.render blankFb)).continued

/-- The effect of a draw whose bytes may be read: the pixels, then VF if `DRAW_SETS_VF`, then one
`Render` (R202, R204, R205). -/
def State.draw (s : State) (cx ry : Byte) (sprite : List Byte) : State :=
  let d := drawRows cx.toNat ry.toNat sprite (s.fb, false)
  let drawn := { s with fb := d.1 }
  (if s.cfg.drawSetsVF then drawn.writeV vf (flagOf d.2) else drawn).emit (.render d.1)

/-- The V registers a draw reads as operands: none for n = 0, which "never faults" whatever was written
(the spec's decisions D12, D16; log 8). -/
def drawReads (x y : Reg) (n : Nibble) : List Reg := if n = 0 then [] else [x, y]

/-- Dxyn DRW Vx, Vy, n: draw the n bytes at I at column Vx, row Vy. n = 0 reads no register and no byte,
meets no error, and still renders (R202, R204, D16; log 8). -/
def execDrw (x y : Reg) (n : Nibble) (s : State) : Result :=
  .next (s.withOperands (drawReads x y n) (n ≠ 0) (s.withRunAtI n.toNat (s.withBytesAtI n.toNat
    (s.draw (s.readV x) (s.readV y) (s.loadBytes s.I.toNat n.toNat)).continued)))

end Sys2Proof.Machine
end

