-- ==== Sys2Proof/Machine/Flow.lean ====
section
/-! DEFINITION. The meanings of the jumps, calls, returns and register skips (41_flow.md R130-R138). -/

namespace Sys2Proof.Machine

/-- 1nnn JP nnn: a jump to the instruction's own address returns `Halt`; the jump is still performed
(R130). -/
def execJp (nnn : Addr12) (s : State) : Result :=
  .next ((s.jumpTo (zext16 nnn)).returning (if zext16 nnn = s.instrAddr then .halt else .cont))

/-- 2nnn CALL nnn: push the return address A + 2; the 16th outstanding call is a fatal error that writes
nothing (R131). -/
def execCall (nnn : Addr12) (s : State) : Result :=
  .next (if s.sp = 15 then s.raise .stackOverflow
    else ((s.push s.pc).jumpTo (zext16 nnn)).continued)

/-- 00EE RET: a return with an empty stack is a fatal error that writes nothing (R133). -/
def execRet (s : State) : Result :=
  .next (if s.sp = 0 then s.raise .stackUnderflow
    else (s.pop.jumpTo s.top).continued)

/-- Skip the next instruction if `p`: `pc` moves by exactly 2 more bytes (R139). -/
def State.skipIf (s : State) (p : Bool) : State := if p then s.advance else s

/-- 3xkk SE Vx, kk (R134). -/
def execSeImm (x : Reg) (kk : Byte) (s : State) : Result :=
  .next (s.withOperands [x] false (s.skipIf (s.readV x = kk)).continued)

/-- 4xkk SNE Vx, kk (R135). -/
def execSneImm (x : Reg) (kk : Byte) (s : State) : Result :=
  .next (s.withOperands [x] false (s.skipIf (s.readV x ≠ kk)).continued)

/-- 5xy0 SE Vx, Vy (R136). -/
def execSeReg (x y : Reg) (s : State) : Result :=
  .next (s.withOperands [x, y] false (s.skipIf (s.readV x = s.readV y)).continued)

/-- 9xy0 SNE Vx, Vy (R137). -/
def execSneReg (x y : Reg) (s : State) : Result :=
  .next (s.withOperands [x, y] false (s.skipIf (s.readV x ≠ s.readV y)).continued)

/-- Bnnn JP V0, nnn: a 16-bit sum, not masked, and never a Halt (R138). -/
def execJpV0 (nnn : Addr12) (s : State) : Result :=
  .next (s.withOperands [0] false (s.jumpTo (zext16 nnn + zext16 (s.readV 0))).continued)

end Sys2Proof.Machine
end

