-- ==== Sys2Proof/Machine/Index.lean ====
section
/-! DEFINITION. The meanings of the address register and memory transfer instructions (43_index_memory.md R180-R185). -/

namespace Sys2Proof.Machine

/-- Annn LD I, nnn (R180). -/
def execLdI (nnn : Addr12) (s : State) : Result :=
  .next (s.writeI (zext16 nnn)).continued

/-- Fx1E ADD I, Vx: a sum above 0xFFF is a fatal error, and I keeps its value (R181). -/
def execAddI (x : Reg) (s : State) : Result :=
  .next (s.withOperands [x] true
    (if 0xFFF < (s.I + zext16 (s.readV x)).toNat then s.raise .addressOutOfRange
     else (s.writeI (s.I + zext16 (s.readV x))).continued))

/-- Fx29 LD F, Vx: the glyph address of the whole of Vx (R182). -/
def execLdF (x : Reg) (s : State) : Result :=
  .next (s.withOperands [x] false (s.writeI (glyphAddr (s.readV x))).continued)

/-- Fx33 LD B, Vx: hundreds, tens and units at I, I + 1, I + 2 (R183). -/
def execLdB (x : Reg) (s : State) : Result :=
  .next (s.withOperands [x] true (s.withRunAtI 3
    (s.storeBytes s.I.toNat (bcdDigits (s.readV x))).continued))

/-- Fx55 LD [I], Vx: store V0 to Vx, x + 1 bytes; I is unchanged (R184). -/
def execStoreRegs (x : Reg) (s : State) : Result :=
  .next (s.withOperands (regsUpTo x) true (s.withRunAtI (x.toNat + 1)
    (s.storeBytes s.I.toNat ((regsUpTo x).map s.readV)).continued))

/-- Fx65 LD Vx, [I]: load V0 to Vx, x + 1 bytes; I is unchanged (R185). -/
def execLoadRegs (x : Reg) (s : State) : Result :=
  .next (s.withOperands [] true (s.withRunAtI (x.toNat + 1) (s.withBytesAtI (x.toNat + 1)
    (s.loadV s.I.toNat x).continued)))

end Sys2Proof.Machine
end

