-- ==== Sys2Proof/Machine/Keys.lean ====
section
/-! DEFINITION. The key instructions (45_timers_keys.md R225-R229): what the executor returns, and the host's key state. -/

namespace Sys2Proof.Machine

/-- Ex9E SKP Vx: the sequencer asks the host (R226). -/
def execSkp (x : Reg) (s : State) : Result :=
  .next (s.withOperands [x] false (s.returning (.skipIfPressed (s.readV x))))

/-- ExA1 SKNP Vx (R227). -/
def execSknp (x : Reg) (s : State) : Result :=
  .next (s.withOperands [x] false (s.returning (.skipIfNotPressed (s.readV x))))

/-- Fx0A LD Vx, K, first half: `pc` is rewound to A, and the sequencer waits (R228). -/
def execLdVxK (x : Reg) (s : State) : Result :=
  .next ((s.jumpTo (s.pc - 2)).returning (.awaitKey x))

/-- `pressed(k)`: the host's answer for a logical key; a value of 0x10 or more is no key and is never
pressed (R225). -/
def State.pressed (s : State) (k : Byte) : Bool :=
  if h : k.toNat < 16 then s.port.pressed[k.toNat] else false

end Sys2Proof.Machine
end

