-- ==== Sys2Proof/Machine/Timers.lean ====
section
/-! DEFINITION. The timer instructions, the timer start and the timer update (45_timers_keys.md R220-R235). -/

namespace Sys2Proof.Machine

/-- Fx07 LD Vx, DT: the stored counter (R222). -/
def execLdVxDT (x : Reg) (s : State) : Result :=
  .next (s.writeV x s.DT).continued

/-- Fx15 LD DT, Vx: `TimerStarted(delay)` only for a non-zero set (R223). -/
def execLdDTVx (x : Reg) (s : State) : Result :=
  .next (s.withOperands [x] false
    ({ s with DT := s.readV x }.returning
      (if s.readV x ≠ 0 then .timerStarted .delay else .cont)))

/-- `emit ToneStop; tone_on <- 0` (R232). -/
def State.stopTone (s : State) : State := ({ s with toneOn := false }).emit .toneStop

/-- `emit ToneStart; tone_on <- 1` (R232). -/
def State.startTone (s : State) : State := ({ s with toneOn := true }).emit .toneStart

/-- Fx18 LD ST, Vx: `TimerStarted(sound)` for a non-zero set; a zero set silences a running tone at once
(R224). -/
def execLdSTVx (x : Reg) (s : State) : Result :=
  .next (s.withOperands [x] false
    (let set := { s with ST := s.readV x }
     if s.readV x ≠ 0 then set.returning (.timerStarted .sound)
     else (if s.ST ≠ 0 then set.stopTone else set).continued))

/-- `now()` after `elapsed` more host time: it never decreases (40_cycle.md R120). -/
def State.now (s : State) (elapsed : Nat) : Nat := s.clock + elapsed

/-- Whole ticks from an anchor to `t`, rounded down (R231). -/
def State.ticksSince (s : State) (anchor t : Nat) : Nat := (t - anchor) / s.cfg.tickPeriod

/-- A counter less `k` ticks, clamped at 0 (R231). -/
def decayed (c : Byte) (k : Nat) : Byte := BitVec.ofNat 8 (c.toNat - min c.toNat k)

/-- The delay timer's start: `anchor_DT <- now()` (R230). -/
def State.startDelay (s : State) : State :=
  let t := s.now s.port.startElapsed
  { s with clock := t, anchorDT := t }

/-- The sound timer's start: `anchor_ST <- now()`, then `ToneStart` (R230, R232). -/
def State.startSound (s : State) : State :=
  let t := s.now s.port.startElapsed
  ({ s with clock := t, anchorST := t }).startTone

/-- The delay timer's part of the timer update (R231). -/
def State.updateDelay (s : State) : State :=
  let t := s.now s.port.delayElapsed
  let k := s.ticksSince s.anchorDT t
  let s := { s with clock := t }
  if 0 < k then { s with DT := decayed s.DT k, anchorDT := t } else s

/-- The sound timer's part of the timer update: reaching 0 stops the tone (R231, R232). -/
def State.updateSound (s : State) : State :=
  let t := s.now s.port.soundElapsed
  let k := s.ticksSince s.anchorST t
  let s := { s with clock := t }
  if 0 < k then
    let decay := { s with ST := decayed s.ST k, anchorST := t }
    if s.ST ≠ 0 ∧ decay.ST = 0 then decay.stopTone else decay
  else s

/-- The timer update: DT, then ST (R231). -/
def State.timerUpdate (s : State) : State := s.updateDelay.updateSound

end Sys2Proof.Machine
end

