-- ==== Sys2Proof/WellFormed.lean ====
section
/-! DEFINITION. The static checks: operand ranges (30_encoding.md R72), the parameters (00_scope.md R5), and the ROM (60_exceptions.md R255). -/

namespace Sys2Proof

/-- A register index names one of V0-VF: "every value names a register" (R72). -/
def isReg (n : Nat) : Bool := n < 16

/-- An 8-bit immediate (R72). -/
def isImm (n : Nat) : Bool := n < 256

/-- A 12-bit address, so an address of memory (R72, 20_memory.md R50). -/
def isAddr (n : Nat) : Bool := n < memSize

/-- A row count 0-15 (R72, `SPRITE_ROWS_MAX` of R5). -/
def isRows (n : Nat) : Bool := n ≤ 15

/-- Every operand lies in the range of its field (R72). The operand types hold exactly these ranges, so
every term passes (`Laws.wf_all`); the checks are written over plain numbers so that they can refuse one. -/
def Instr.wf : Instr → Bool
  | .cls | .ret => true
  | .jp nnn | .call nnn | .ldI nnn | .jpV0 nnn => isAddr nnn.toNat
  | .seImm x kk | .sneImm x kk | .ldImm x kk | .addImm x kk | .rnd x kk => isReg x.toNat && isImm kk.toNat
  | .seReg x y | .ldReg x y | .orReg x y | .andReg x y | .xorReg x y | .addReg x y | .subReg x y
  | .shr x y | .subn x y | .shl x y | .sneReg x y => isReg x.toNat && isReg y.toNat
  | .drw x y n => isReg x.toNat && isReg y.toNat && isRows n.toNat
  | .skp x | .sknp x | .ldVxDT x | .ldVxK x | .ldDTVx x | .ldSTVx x | .addI x | .ldF x | .ldB x
  | .storeRegs x | .loadRegs x => isReg x.toNat

/-- The parameters make sense: a tick takes some host time (R5). -/
def Config.wf (c : Config) : Bool := 0 < c.tickPeriod

/-- The ROM fits below the top of memory: at most `ROM_MAX` bytes (R255, 70_reset_and_hazards.md R281). -/
def romFits (rom : List Byte) : Bool := rom.length ≤ romMax

end Sys2Proof
end

