-- ==== Sys2Proof/Decode.lean ====
section
/-! DEFINITION. The decoder, total on all words and bytes, and the encoder (30_encoding.md R70-R80). -/

namespace Sys2Proof

/-- `a = w[15:12]` (00_scope.md R7). -/
def opField (w : Word) : Nibble := w.extractLsb' 12 4
/-- `x = w[11:8]` (30_encoding.md R71). -/
def xField (w : Word) : Nibble := w.extractLsb' 8 4
/-- `y = w[7:4]` (R71). -/
def yField (w : Word) : Nibble := w.extractLsb' 4 4
/-- `n = d = w[3:0]` (R71). -/
def nField (w : Word) : Nibble := w.extractLsb' 0 4
/-- `kk = w[7:0]` (R71). -/
def kkField (w : Word) : Byte := w.extractLsb' 0 8
/-- `nnn = w[11:0]` (R71). -/
def nnnField (w : Word) : Addr12 := w.extractLsb' 0 12

/-- Why bytes are no instruction. None of these stops the machine: an unrecognized word is the no-op of
R79. Safe: the spec lists exactly these words (R74-R77). -/
inductive Reject where
  /-- Fewer than the two bytes of a word are given (R70). -/
  | truncated
  /-- Family 0, not 00E0 or 00EE (R74). -/
  | system (w : Word)
  /-- Family 8, low nibble 8-D or F (R75). -/
  | alu (w : Word)
  /-- Family E, kk not 9E or A1 (R76). -/
  | key (w : Word)
  /-- Family F, kk outside the nine of R77. -/
  | misc (w : Word)
  deriving DecidableEq, Repr

/-- Family 0: the whole word selects (R74). -/
def decodeSystem (w : Word) : Except Reject Instr :=
  if w = 0x00E0#16 then .ok .cls
  else if w = 0x00EE#16 then .ok .ret
  else .error (.system w)

/-- Family 8: the low nibble selects (R75). -/
def decodeAlu (w : Word) : Except Reject Instr :=
  match nField w with
  | 0x0#4 => .ok (.ldReg (xField w) (yField w))
  | 0x1#4 => .ok (.orReg (xField w) (yField w))
  | 0x2#4 => .ok (.andReg (xField w) (yField w))
  | 0x3#4 => .ok (.xorReg (xField w) (yField w))
  | 0x4#4 => .ok (.addReg (xField w) (yField w))
  | 0x5#4 => .ok (.subReg (xField w) (yField w))
  | 0x6#4 => .ok (.shr (xField w) (yField w))
  | 0x7#4 => .ok (.subn (xField w) (yField w))
  | 0xE#4 => .ok (.shl (xField w) (yField w))
  | _ => .error (.alu w)

/-- Family E: `kk` selects (R76). -/
def decodeKey (w : Word) : Except Reject Instr :=
  match kkField w with
  | 0x9E#8 => .ok (.skp (xField w))
  | 0xA1#8 => .ok (.sknp (xField w))
  | _ => .error (.key w)

/-- Family F: `kk` selects (R77). -/
def decodeMisc (w : Word) : Except Reject Instr :=
  match kkField w with
  | 0x07#8 => .ok (.ldVxDT (xField w))
  | 0x0A#8 => .ok (.ldVxK (xField w))
  | 0x15#8 => .ok (.ldDTVx (xField w))
  | 0x18#8 => .ok (.ldSTVx (xField w))
  | 0x1E#8 => .ok (.addI (xField w))
  | 0x29#8 => .ok (.ldF (xField w))
  | 0x33#8 => .ok (.ldB (xField w))
  | 0x55#8 => .ok (.storeRegs (xField w))
  | 0x65#8 => .ok (.loadRegs (xField w))
  | _ => .error (.misc w)

/-- The opcode map of R73: dispatch on the top nibble, then within the family. In families 5 and 9 the
low nibble is not decoded (R78). -/
def decodeWord (w : Word) : Except Reject Instr :=
  match opField w with
  | 0x0#4 => decodeSystem w
  | 0x1#4 => .ok (.jp (nnnField w))
  | 0x2#4 => .ok (.call (nnnField w))
  | 0x3#4 => .ok (.seImm (xField w) (kkField w))
  | 0x4#4 => .ok (.sneImm (xField w) (kkField w))
  | 0x5#4 => .ok (.seReg (xField w) (yField w))
  | 0x6#4 => .ok (.ldImm (xField w) (kkField w))
  | 0x7#4 => .ok (.addImm (xField w) (kkField w))
  | 0x8#4 => decodeAlu w
  | 0x9#4 => .ok (.sneReg (xField w) (yField w))
  | 0xA#4 => .ok (.ldI (nnnField w))
  | 0xB#4 => .ok (.jpV0 (nnnField w))
  | 0xC#4 => .ok (.rnd (xField w) (kkField w))
  | 0xD#4 => .ok (.drw (xField w) (yField w) (nField w))
  | 0xE#4 => decodeKey w
  | _ => decodeMisc w

/-- `hi ++ lo` (00_scope.md R8): the word of two bytes, the first one the high byte (20_memory.md R52). -/
def wordOf (hi lo : Byte) : Word := hi ++ lo

/-- The two bytes of a word as memory holds them: big-endian (R52). -/
def wordBytes (w : Word) : List Byte := [w.extractLsb' 8 8, w.extractLsb' 0 8]

/-- Decode from a list of bytes: the instruction and the bytes after its word (R70: every instruction is
exactly one word). -/
def decode : List Byte → Except Reject (Instr × List Byte)
  | hi :: lo :: rest =>
    match decodeWord (wordOf hi lo) with
    | .ok i => .ok (i, rest)
    | .error r => .error r
  | _ => .error .truncated

/-- The instruction the decoder reads from the word `w` of a row of spec/opcode_table.json: one 16-bit
word, laid out big-endian. -/
def decodeTableWord (nbits w : Nat) : Option Instr :=
  match decode (wordBytes (BitVec.ofNat 16 (w % 2 ^ nbits))) with
  | .ok (i, _) => some i
  | .error _ => none

/-- Format NNN (30_encoding.md R71). -/
def wordNNN (a : Nibble) (nnn : Addr12) : Word := a ++ nnn
/-- Format XKK (R71). -/
def wordXKK (a : Nibble) (x : Reg) (kk : Byte) : Word := a ++ x ++ kk
/-- Formats XY and XYN (R71). -/
def wordXYN (a : Nibble) (x y : Reg) (n : Nibble) : Word := a ++ x ++ y ++ n

/-- The word of an instruction (R71, R73). The undecoded low nibble of 5xy0 and 9xy0 is written 0, as the
pattern has it. -/
def encode : Instr → Word
  | .cls => 0x00E0#16
  | .ret => 0x00EE#16
  | .jp nnn => wordNNN 0x1#4 nnn
  | .call nnn => wordNNN 0x2#4 nnn
  | .seImm x kk => wordXKK 0x3#4 x kk
  | .sneImm x kk => wordXKK 0x4#4 x kk
  | .seReg x y => wordXYN 0x5#4 x y 0x0#4
  | .ldImm x kk => wordXKK 0x6#4 x kk
  | .addImm x kk => wordXKK 0x7#4 x kk
  | .ldReg x y => wordXYN 0x8#4 x y 0x0#4
  | .orReg x y => wordXYN 0x8#4 x y 0x1#4
  | .andReg x y => wordXYN 0x8#4 x y 0x2#4
  | .xorReg x y => wordXYN 0x8#4 x y 0x3#4
  | .addReg x y => wordXYN 0x8#4 x y 0x4#4
  | .subReg x y => wordXYN 0x8#4 x y 0x5#4
  | .shr x y => wordXYN 0x8#4 x y 0x6#4
  | .subn x y => wordXYN 0x8#4 x y 0x7#4
  | .shl x y => wordXYN 0x8#4 x y 0xE#4
  | .sneReg x y => wordXYN 0x9#4 x y 0x0#4
  | .ldI nnn => wordNNN 0xA#4 nnn
  | .jpV0 nnn => wordNNN 0xB#4 nnn
  | .rnd x kk => wordXKK 0xC#4 x kk
  | .drw x y n => wordXYN 0xD#4 x y n
  | .skp x => wordXKK 0xE#4 x 0x9E#8
  | .sknp x => wordXKK 0xE#4 x 0xA1#8
  | .ldVxDT x => wordXKK 0xF#4 x 0x07#8
  | .ldVxK x => wordXKK 0xF#4 x 0x0A#8
  | .ldDTVx x => wordXKK 0xF#4 x 0x15#8
  | .ldSTVx x => wordXKK 0xF#4 x 0x18#8
  | .addI x => wordXKK 0xF#4 x 0x1E#8
  | .ldF x => wordXKK 0xF#4 x 0x29#8
  | .ldB x => wordXKK 0xF#4 x 0x33#8
  | .storeRegs x => wordXKK 0xF#4 x 0x55#8
  | .loadRegs x => wordXKK 0xF#4 x 0x65#8

end Sys2Proof
end

