-- ==== Sys2Proof/Machine/Sequencer.lean ====
section
/-! DEFINITION. The sequencer around the executor (40_cycle.md R100-R113): fetch, signal handling, the quit poll, and the AwaitingKey and Halted steps. -/

namespace Sys2Proof.Machine

/-- The start of a step: its event list is empty, and no word is fetched and no signal returned yet
(R101, R104, R121). -/
def State.beginStep (s : State) : State := { s with events := [], fetched := none, signal := none }

/-- The host's answers move on to the next step: those of the script, then free ones (R120, log 3). -/
def State.nextAnswers (s : State) : State :=
  match s.script with
  | a :: rest => { s with port := a, script := rest }
  | [] => { s with port := Config.freeHost s.drawn, drawn := s.drawn + 1 }

/-- The end of a step: the fetched word and the signal do not outlive the cycle (10_state.md R35, R101). -/
def State.endStep (s : State) : State := ({ s with fetched := none, signal := none }).nextAnswers

/-- `fetch(pc)` (R101): big-endian, from the current memory. It fails when a byte would lie outside memory
(R102), then when one has never been written and that is an error (60_exceptions.md R257). -/
def State.fetch (s : State) : Except ErrorCode Word :=
  if 0xFFE < s.pc.toNat then .error .fetchOutOfRange
  else if s.bytesReadable s.pc.toNat 2 then
    .ok (wordOf (s.byte s.pc.toNat) (s.byte (s.pc.toNat + 1)))
  else .error .unwrittenRead

/-- A successful fetch: the word is latched and `pc <- A + 2` before decode (R103). -/
def State.enterExecute (s : State) (w : Word) : State := { s with fetched := some w }.advance

/-- An unrecognized word: `Diagnostic(A, w)`, no other change, `Continue` (30_encoding.md R79). -/
def State.unrecognized (s : State) (w : Word) : State :=
  (s.emit (.diagnostic s.instrAddr w)).continued

/-- `handle(sig)` in mode Running (R107). -/
def State.handle (s : State) : Signal → State
  | .cont => s
  | .halt => { s with mode := .halted }
  | .timerStarted .delay => s.startDelay
  | .timerStarted .sound => s.startSound
  | .awaitKey x => { s with mode := .awaitingKey x }
  | .skipIfPressed k => if s.pressed k then s.advance else s
  | .skipIfNotPressed k => if s.pressed k then s else s.advance

/-- The quit poll; without a request, the timer update (R108, R109). -/
def State.pollQuit (s : State) : State :=
  if s.port.quit then { s with mode := .halted } else s.timerUpdate

/-- The rest of a Running cycle after `execute` (R100): an error ends the step at once (60_exceptions.md
R252), and so does a Halt (R107). -/
def State.finishCycle (s : State) : State :=
  match s.signal with
  | none => s
  | some sig =>
    let handled := s.handle sig
    if handled.mode = .halted then handled else handled.pollQuit

/-- A step in mode AwaitingKey(x): quit request first, then the key-down event (R111,
45_timers_keys.md R229). No timer update (R233). -/
def State.awaitStep (s : State) (x : Reg) : State :=
  if s.port.quit then { s with mode := .halted }
  else match s.port.keyDown with
    | none => s
    | some k => { (s.writeV x (k.setWidth 8)).advance with mode := .running }

/-- A step in mode Halted: the timer update and nothing else (R112, R234). -/
def State.haltedStep (s : State) : State := s.timerUpdate

/-- Store a word where the next fetch of a running machine reads it, big-endian (20_memory.md R52). -/
def State.placeWord (s : State) (w : Word) : State :=
  { s.storeBytes s.pc.toNat (wordBytes w) with mode := .running }

end Sys2Proof.Machine
end

