-- ==== Sys2Proof/Machine/Cycle.lean ====
section
/-! DEFINITION. The cycle of the Running mode (40_cycle.md R100) over the executor. -/

namespace Sys2Proof.Machine

/-- Go on from a next state; a fault or a refusal stays. -/
def afterNext (f : State → State) : Result → Result
  | .next s => .next (f s)
  | .fault r => .fault r
  | .refused r => .refused r

/-- `execute(w, A)` (R104): the decoded instruction, or the no-op of an unrecognized word. -/
def executeWord (w : Word) (s : State) : Result :=
  match decodeWord w with
  | .ok i => exec i s
  | .error _ => .next (s.unrecognized w)

/-- One cycle of mode Running (R100). A fetch error leaves `pc` at A and names no word (R102, R252). -/
def runningStep (s : State) : Result :=
  match s.fetch with
  | .error code => .next (s.raiseAt code s.pc none)
  | .ok w => afterNext State.finishCycle (executeWord w (s.enterExecute w))

/-- One step in any mode. Mode Faulted has none (R113). -/
def modeStep (s : State) : Result :=
  match s.mode with
  | .running => runningStep s
  | .awaitingKey x => .next (s.awaitStep x)
  | .halted => .next s.haltedStep
  | .faulted r => .fault (.noStep r)

end Sys2Proof.Machine
end

