-- ==== Sys2Proof/Machine/Step.lean ====
section
/-! DEFINITION. One step of the block (40_cycle.md R100, R111, R112, R115), and where a program's next instruction stands. -/

namespace Sys2Proof.Machine

/-- One step: also what a step request of the single-step driver runs (R115). -/
def step (s : State) : Host.Outcome State Fault Refusal :=
  afterNext State.endStep (modeStep s.beginStep)

/-- `s` with the word `w` stored at `pc`, in mode Running, so that the next step fetches and runs it. It
stands for a program loaded from outside the machine (log 2). -/
def State.withFetchWord (s : State) (nbits w : Nat) : State :=
  s.placeWord (BitVec.ofNat 16 (w % 2 ^ nbits))

end Sys2Proof.Machine
end

