-- ==== Sys2Proof/Machine/Boot.lean ====
section
/-! DEFINITION. Construction and program load (70_reset_and_hazards.md R280, R281; 60_exceptions.md R255). -/

namespace Sys2Proof.Machine

/-- `load(bytes)`: copy a byte sequence into memory from 0x200 (R281). -/
def State.load (s : State) (rom : List Byte) : State := s.storeBytes progBase rom

/-- Construction from what the host supplies: the ROM's name (`none`: not given), and its bytes (`none`:
unreadable). The checks come in the order of R255, and only then does a state exist (R280). -/
def construct (cfg : Config) (t0 : Nat) (port : HostInputs) (script : List HostInputs) :
    Option (Option (List Byte)) → Except StartupError State
  | none => .error .configNoRom
  | some none => .error .ioRomUnreadable
  | some (some rom) =>
    if romFits rom then .ok ((State.initial cfg t0 port script).load rom)
    else .error .configRomTooLarge

end Sys2Proof.Machine
end

