-- ==== Sys2Proof/Safety.lean ====
section
/-! DEFINITION. The terms claims use: what an instruction reads, when it meets an error, what it leaves unchanged, and the invariants of a run. -/

namespace Sys2Proof

/-- The V registers an instruction reads as operands (10_state.md R21, R39). A draw of no rows reads none (the
spec's decision D16, log 8). -/
def Instr.reads : Instr → List Reg
  | .cls | .ret | .jp _ | .call _ | .ldImm _ _ | .ldI _ | .rnd _ _ | .ldVxDT _ | .ldVxK _ | .loadRegs _ => []
  | .seImm x _ | .sneImm x _ | .addImm x _ | .shr x _ | .shl x _ | .skp x | .sknp x | .ldDTVx x
  | .ldSTVx x | .addI x | .ldF x | .ldB x => [x]
  | .seReg x y | .sneReg x y | .orReg x y | .andReg x y | .xorReg x y | .addReg x y | .subReg x y
  | .subn x y => [x, y]
  | .drw x y n => if n = 0 then [] else [x, y]
  | .ldReg _ y => [y]
  | .jpV0 _ => [0]
  | .storeRegs x => (List.range (x.toNat + 1)).map (BitVec.ofNat 4)

/-- Does an instruction read `I`? (10_state.md R24, R39; a draw of no rows does not, log 8.) -/
def Instr.readsI : Instr → Bool
  | .addI _ | .ldB _ | .storeRegs _ | .loadRegs _ => true
  | .drw _ _ n => n ≠ 0
  | _ => false

/-- How many bytes an instruction accesses from `I` on (20_memory.md R54). -/
def Instr.run : Instr → Nat
  | .ldB _ => 3
  | .storeRegs x | .loadRegs x => x.toNat + 1
  | .drw _ _ n => n.toNat
  | _ => 0

/-- How many bytes it stores from `I` on (R54). -/
def Instr.stores : Instr → Nat
  | .ldB _ => 3
  | .storeRegs x => x.toNat + 1
  | _ => 0

/-- The V registers an instruction writes when it executes (10_state.md R21): a draw writes VF only if
`DRAW_SETS_VF`, and Fx0A writes when the key arrives, in a later step. -/
def Instr.writes (drawSetsVF : Bool) : Instr → List Reg
  | .ldImm x _ | .addImm x _ | .ldReg x _ | .orReg x _ | .andReg x _ | .xorReg x _ | .rnd x _
  | .ldVxDT x => [x]
  | .addReg x _ | .subReg x _ | .shr x _ | .subn x _ | .shl x _ => [x, 0xF#4]
  | .drw _ _ _ => if drawSetsVF then [0xF#4] else []
  | .loadRegs x => (List.range (x.toNat + 1)).map (BitVec.ofNat 4)
  | _ => []

/-- How many of those it reads (R54). -/
def Instr.runRead : Instr → Nat
  | .loadRegs x => x.toNat + 1
  | .drw _ _ n => n.toNat
  | _ => 0

end Sys2Proof

namespace Sys2Proof.Machine

/-- Reading these registers (and `I`) is no error: always so with `UNWRITTEN_READ = zero`, and with
`fault` if all of them have been written (10_state.md R39). -/
def State.CanRead (s : State) (rs : List Reg) (readsI : Bool) : Prop :=
  s.cfg.unwrittenRead = .zero ∨
    ((∀ r ∈ rs, s.regWritten r = true) ∧ (readsI = true → s.written.I = true))

/-- Reading the `k` bytes at `a` is no error (R39). -/
def State.CanReadBytes (s : State) (a k : Nat) : Prop :=
  s.cfg.unwrittenRead = .zero ∨ ∀ b, a ≤ b → b < a + k → s.byteWritten b = true

/-- A run of `k` bytes at `I` lies in memory (20_memory.md R57). -/
def State.RunFits (s : State) (k : Nat) : Prop := k = 0 ∨ s.I.toNat + k ≤ 0x1000

/-- The range and stack conditions of 60_exceptions.md R251, and a failing random source. -/
inductive Meets (s : State) : Instr → ErrorCode → Prop where
  | addI (x : Reg) : 0xFFF < (s.I + zext16 (s.readV x)).toNat → Meets s (.addI x) .addressOutOfRange
  | run (i : Instr) : ¬ s.RunFits i.run → Meets s i .addressOutOfRange
  | call (nnn : Addr12) : s.sp = 15 → Meets s (.call nnn) .stackOverflow
  | ret : s.sp = 0 → Meets s .ret .stackUnderflow
  | rnd (x : Reg) (kk : Byte) : s.port.random = none → Meets s (.rnd x kk) .rngFailure

/-- The error an executing instruction meets, in the order of 60_exceptions.md R257: an unwritten operand,
then a condition of R251, then an unwritten memory byte. What a draw of no rows reads is log 8. -/
def FirstError (s : State) (i : Instr) (c : ErrorCode) : Prop :=
  (¬ s.CanRead i.reads i.readsI ∧ c = .unwrittenRead) ∨
  (s.CanRead i.reads i.readsI ∧ Meets s i c) ∨
  (s.CanRead i.reads i.readsI ∧ (∀ d, ¬ Meets s i d) ∧ ¬ s.CanReadBytes s.I.toNat i.runRead ∧
    c = .unwrittenRead)

/-- The parts of the state besides the V registers, memory and the parameters. -/
inductive Part where
  | I | pc | sp | stack | DT | ST | anchorDT | anchorST | toneOn | mode | fb
  | fetched | signal | events | clock | host
  deriving DecidableEq, Repr

/-- From `s` to `t` nothing changes but the V registers in `vs`, the `len` bytes of memory from `lo` on,
and the parts in `parts`. -/
structure Frame (s t : State) (vs : List Reg) (lo len : Nat) (parts : List Part) : Prop where
  V : ∀ r, r ∉ vs → t.readV r = s.readV r ∧ t.regWritten r = s.regWritten r
  mem : ∀ a, a < lo ∨ lo + len ≤ a → t.byte a = s.byte a ∧ t.byteWritten a = s.byteWritten a
  cfg : t.cfg = s.cfg
  I : .I ∉ parts → t.I = s.I ∧ t.written.I = s.written.I
  pc : .pc ∉ parts → t.pc = s.pc
  sp : .sp ∉ parts → t.sp = s.sp
  stack : .stack ∉ parts → t.stack = s.stack
  DT : .DT ∉ parts → t.DT = s.DT
  ST : .ST ∉ parts → t.ST = s.ST
  anchorDT : .anchorDT ∉ parts → t.anchorDT = s.anchorDT
  anchorST : .anchorST ∉ parts → t.anchorST = s.anchorST
  toneOn : .toneOn ∉ parts → t.toneOn = s.toneOn
  mode : .mode ∉ parts → t.mode = s.mode
  fb : .fb ∉ parts → t.fb = s.fb
  fetched : .fetched ∉ parts → t.fetched = s.fetched
  signal : .signal ∉ parts → t.signal = s.signal
  events : .events ∉ parts → t.events = s.events
  clock : .clock ∉ parts → t.clock = s.clock
  host : .host ∉ parts → t.port = s.port ∧ t.script = s.script ∧ t.drawn = s.drawn

/-- The parts an instruction may change when it executes normally: its signal, and what its rule writes
besides V registers and memory (10_state.md R24-R33). -/
def partsOf : Instr → List Part
  | .cls | .drw _ _ _ => [.signal, .fb, .events]
  | .ret => [.signal, .pc, .sp]
  | .call _ => [.signal, .pc, .sp, .stack]
  | .jp _ | .jpV0 _ | .seImm _ _ | .sneImm _ _ | .seReg _ _ | .sneReg _ _ | .ldVxK _ => [.signal, .pc]
  | .ldI _ | .addI _ | .ldF _ => [.signal, .I]
  | .ldDTVx _ => [.signal, .DT]
  | .ldSTVx _ => [.signal, .ST, .toneOn, .events]
  | _ => [.signal]

/-- The parts every step may change whatever it does: the host's answers move on, and the event list, the
fetched word and the signal are the step's own. -/
def stepParts : List Part := [.fetched, .signal, .events, .host]

/-- The parts the timer update may change (45_timers_keys.md R231). -/
def timerParts : List Part := [.DT, .ST, .anchorDT, .anchorST, .toneOn, .clock]

/-- The invariant of a run, between steps. -/
structure State.Inv (s : State) : Prop where
  /-- Memory is canonical, so no byte lies outside 0x000-0xFFF (20_memory.md R50). -/
  mem : Memory.wf s.cfg.font s.mem
  /-- So is the list of written addresses (R39). -/
  writtenMem : s.written.mem.Pairwise (· < ·) ∧ ∀ a ∈ s.written.mem, a < memSize
  /-- 10_state.md R24. -/
  I : s.I.toNat ≤ 0xFFF
  /-- R26. -/
  pc : s.pc.toNat ≤ 0x10FE
  /-- A waiting Fx0A stands where it was fetched (R25, 40_cycle.md R102). -/
  waiting : ∀ x, s.mode = .awaitingKey x → s.pc.toNat ≤ 0xFFE
  /-- A return address is the end of a fetched word (41_flow.md R131). -/
  stack : ∀ j : Fin 16, s.stack[j.val].toNat ≤ 0x1000
  /-- `stack[0]` is never written (R27). -/
  bottom : s.stack[0] = 0
  /-- 45_timers_keys.md R232. -/
  tone : s.toneOn = true ↔ s.ST ≠ 0
  /-- Host time never decreases (40_cycle.md R120). -/
  anchorDT : s.anchorDT ≤ s.clock
  anchorST : s.anchorST ≤ s.clock
  /-- The fetched word and the signal live only within one cycle (R35). -/
  fetched : s.fetched = none
  signal : s.signal = none

/-- State that nothing has written still holds its reset value (10_state.md R37, R39). -/
structure State.UnwrittenIsReset (s : State) : Prop where
  V : ∀ r, s.regWritten r = false → s.readV r = 0
  I : s.written.I = false → s.I = 0
  mem : ∀ a, s.byteWritten a = false → s.byte a = 0

/-- A pixel that the sprite inverts (44_display.md R201, R203): some row `i` and column offset `j` of the
sprite, whose bit is 1, lands on it. -/
def SpriteCovers (cx ry : Byte) (sprite : List Byte) (r : Fin 32) (c : Fin 64) : Prop :=
  ∃ i j, ∃ h : i < sprite.length, j < 8 ∧ (sprite[i]).getLsbD (7 - j) = true ∧
    r.val = (ry.toNat + i) % 32 ∧ c.val = (cx.toNat + j) % 64

end Sys2Proof.Machine
end

