-- ==== Sys2Proof/Certificates/Slice0/Obligations.lean ====
section
/-! DEFINITION. The statements for the provers. Each says which rules of spec/ it rests on; a decision D<n>
named below is the spec's own, of 92_eei_decisions.md (log 10). -/

open Sys2Proof Sys2Proof.Machine

/-! Encoding (30_encoding.md) -/

/-- Decoding the bytes of an encoded instruction gives it back, with every operand and with the bytes
that follow untouched (R70, R71, R73). -/
def Obligations.DecodeEncodeRoundTrip : Prop :=
  ∀ (i : Instr) (rest : List Byte), i.wf = true →
    decode (wordBytes (encode i) ++ rest) = .ok (i, rest)

/-- A word that decodes is the word of its instruction, but for the low nibble of families 5 and 9, which
is not decoded (30_encoding.md section 3; decision D17) and is written 0 (log 15). -/
def Obligations.EncodeDecodeRoundTrip : Prop :=
  ∀ (w : Word) (i : Instr), decodeWord w = .ok i →
    encode i = if opField w = 0x5 ∨ opField w = 0x9 then wordXYN (opField w) (xField w) (yField w) 0 else w

/-- The unrecognized words are exactly those of R79, and executing one emits `Diagnostic(A, w)`, returns
`Continue`, and changes nothing else (30_encoding.md section 4; decisions D17 and D36, log 10). -/
def Obligations.UnrecognizedWordIsDiagnosedNoOp : Prop :=
  (∀ w : Word, (∃ r, decodeWord w = .error r) ↔
    (opField w = 0x0 ∧ w ≠ 0x00E0#16 ∧ w ≠ 0x00EE#16) ∨
    (opField w = 0x8 ∧ nField w ∈ [0x8#4, 0x9#4, 0xA#4, 0xB#4, 0xC#4, 0xD#4, 0xF#4]) ∨
    (opField w = 0xE ∧ kkField w ∉ [0x9E#8, 0xA1#8]) ∨
    (opField w = 0xF ∧ kkField w ∉
      [0x07#8, 0x0A#8, 0x15#8, 0x18#8, 0x1E#8, 0x29#8, 0x33#8, 0x55#8, 0x65#8])) ∧
  ∀ (w : Word) (s : State), (∃ r, decodeWord w = .error r) →
    ∃ t, executeWord w s = .next t ∧ t.events = s.events ++ [.diagnostic (s.pc - 2) w] ∧
      t.signal = some .cont ∧ Frame s t [] 0 0 [.signal, .events]

/-- Words written out from the patterns of R71 and R73 decode to their instructions. That 0x5121, whose low
nibble is not 0, is a 5xy0 is not of those patterns: it is decision D17 (log 10, log 15). -/
def Obligations.WrittenOutWordsDecode : Prop :=
  decodeTableWord 16 0b0000000011100000 = some .cls ∧
  decodeTableWord 16 0b0001101010111100 = some (.jp 0xABC) ∧
  decodeTableWord 16 0b0101000100100001 = some (.seReg 1 2) ∧
  decodeTableWord 16 0b0110101000000010 = some (.ldImm 0xA 0x02) ∧
  decodeTableWord 16 0b1000101010110100 = some (.addReg 0xA 0xB) ∧
  decodeTableWord 16 0b1101000000010101 = some (.drw 0 1 5) ∧
  decodeTableWord 16 0b1110000010100001 = some (.sknp 0) ∧
  decodeTableWord 16 0b1111011101100101 = some (.loadRegs 7)

/-! The sequencer (40_cycle.md) -/

/-- When the two bytes at `pc` may be fetched, a Running step executes their word on the state with the
word latched and `pc` advanced by 2: `exec i` if it decodes to `i`, else the no-op of an unrecognized word
(30_encoding.md section 4; decision D36); then the rest of the cycle, then the end of the step (40_cycle.md
section 1). The latched word and the empty signal are the model's reading (log 6, DEDUCED), and the empty
event list is its choice (log 7). -/
def Obligations.StepRunsDecodedInstruction : Prop :=
  ∀ s : State, s.mode = .running → s.pc.toNat ≤ 0xFFE → s.CanReadBytes s.pc.toNat 2 →
    let bytes := [s.byte s.pc.toNat, s.byte (s.pc.toNat + 1)]
    let w := wordOf (s.byte s.pc.toNat) (s.byte (s.pc.toNat + 1))
    ∃ u : State, u.pc = s.pc + 2 ∧ u.fetched = some w ∧
      u.signal = none ∧ u.events = [] ∧ Frame s u [] 0 0 [.pc, .fetched, .signal, .events] ∧
      (∀ i, decode bytes = .ok (i, []) →
        step s = afterNext State.endStep (afterNext State.finishCycle (exec i u))) ∧
      (∀ r, decode bytes = .error r → step s = .next (u.unrecognized w).finishCycle.endStep)

/-- A fetch in range is big-endian from the current memory, at any address, odd ones too (20_memory.md
sections 3 and 4; 40_cycle.md section 1). That an odd `pc` is fetched like any other (D34), that memory is
read afresh (D28) and that 0xFFE is in range (D10) are the spec's own decisions (log 10). -/
def Obligations.FetchReadsBigEndianWord : Prop :=
  ∀ s : State, s.pc.toNat ≤ 0xFFE → s.CanReadBytes s.pc.toNat 2 →
    ∃ w, s.fetch = .ok w ∧
      w.toNat = (s.byte s.pc.toNat).toNat * 256 + (s.byte (s.pc.toNat + 1)).toNat

/-- A fetch above 0xFFE, and under `UNWRITTEN_READ = fault` a fetch of a byte nothing has written, enters
Faulted with no word, leaves `pc` at A and changes nothing else (decisions D10, D2, D35 of the spec). -/
def Obligations.FetchErrorEntersFaulted : Prop :=
  ∀ s : State, s.mode = .running →
    (0xFFE < s.pc.toNat → ∃ t, step s = .next t ∧
      t.mode = .faulted ⟨.fetchOutOfRange, s.pc, none⟩ ∧
      t.events = [.fault ⟨.fetchOutOfRange, s.pc, none⟩] ∧
      Frame s t [] 0 0 (.mode :: stepParts)) ∧
    (s.pc.toNat ≤ 0xFFE → ¬ s.CanReadBytes s.pc.toNat 2 → ∃ t, step s = .next t ∧
      t.mode = .faulted ⟨.unwrittenRead, s.pc, none⟩ ∧
      t.events = [.fault ⟨.unwrittenRead, s.pc, none⟩] ∧
      Frame s t [] 0 0 (.mode :: stepParts))

/-- Every instruction meets an error exactly where 60_exceptions.md sections 1 and 3 say, in their order,
and then only raises it; otherwise it completes, returns a signal and leaves the mode alone. That a
draw of no rows meets no error, whatever was written, is decision D16 as the model reads it (log 8); the
marks of what was written are the model's inference (log 5). -/
def Obligations.ErrorsAreExactlyTheListed : Prop :=
  ∀ (i : Instr) (s : State),
    (∀ c, FirstError s i c → exec i s = .next (s.raise c)) ∧
    ((∀ c, ¬ FirstError s i c) →
      ∃ t sig, exec i s = .next t ∧ t.signal = some sig ∧ t.mode = s.mode)

/-- Raising an error writes only the mode and the event: code, the instruction's address `pc - 2`, and its
word (60_exceptions.md section 2; the spec's decision D35). -/
def Obligations.RaiseWritesOnlyTheRecord : Prop :=
  ∀ (s : State) (c : ErrorCode),
    (s.raise c).mode = .faulted ⟨c, s.pc - 2, s.fetched⟩ ∧
    (s.raise c).events = s.events ++ [.fault ⟨c, s.pc - 2, s.fetched⟩] ∧
    Frame s (s.raise c) [] 0 0 [.mode, .events]

/-- A step whose instruction meets an error ends there: Faulted with the instruction's address and word,
`pc` at A + 2, the `Fault` event alone, and no other effect, quit poll or timer update (60_exceptions.md
section 2; decision D35). That a draw of no rows meets no error is decision D16 as the model reads it
(log 8). -/
def Obligations.ErrorEndsTheStep : Prop :=
  ∀ (s : State) (w : Word) (i : Instr) (c : ErrorCode), s.mode = .running → s.fetch = .ok w →
    decodeWord w = .ok i → FirstError s i c →
    ∃ t, step s = .next t ∧ t.mode = .faulted ⟨c, s.pc, some w⟩ ∧ t.pc = s.pc + 2 ∧
      t.events = [.fault ⟨c, s.pc, some w⟩] ∧ Frame s t [] 0 0 (.mode :: .pc :: stepParts)

/-- Mode Faulted has no step, and every other mode has one (40_cycle.md sections 1 and 3). That `step` then
answers the fault `noStep` is the model's choice (log 9). -/
def Obligations.OnlyFaultedHasNoStep : Prop :=
  ∀ s : State,
    (∀ r, s.mode = .faulted r → step s = .fault (.noStep r)) ∧
    ((∀ r, s.mode ≠ .faulted r) → ∃ t, step s = .next t)

/-- What the sequencer does with each signal (40_cycle.md section 2; 45_timers_keys.md sections 3 and 4;
decision D18 for keys above 0xF, D22 for the host time, D43 for the tone; log 10). The host's answers and
`clock` are the model's own fields (log 3). -/
def Obligations.SignalsAreHandled : Prop :=
  ∀ s : State,
    s.handle .cont = s ∧
    ((s.handle .halt).mode = .halted ∧ Frame s (s.handle .halt) [] 0 0 [.mode]) ∧
    (let t := s.handle (.timerStarted .delay)
     t.clock = s.clock + s.port.startElapsed ∧ t.anchorDT = t.clock ∧
       Frame s t [] 0 0 [.clock, .anchorDT]) ∧
    (let t := s.handle (.timerStarted .sound)
     t.clock = s.clock + s.port.startElapsed ∧ t.anchorST = t.clock ∧ t.toneOn = true ∧
       t.events = s.events ++ [.toneStart] ∧
       Frame s t [] 0 0 [.clock, .anchorST, .toneOn, .events]) ∧
    (∀ x, (s.handle (.awaitKey x)).mode = .awaitingKey x ∧
      Frame s (s.handle (.awaitKey x)) [] 0 0 [.mode]) ∧
    (∀ k : Byte, ∀ h : k.toNat < 16,
      (s.handle (.skipIfPressed k)).pc = (if s.port.pressed[k.toNat] then s.pc + 2 else s.pc) ∧
      (s.handle (.skipIfNotPressed k)).pc = (if s.port.pressed[k.toNat] then s.pc else s.pc + 2)) ∧
    (∀ k : Byte, 16 ≤ k.toNat →
      (s.handle (.skipIfPressed k)).pc = s.pc ∧ (s.handle (.skipIfNotPressed k)).pc = s.pc + 2) ∧
    (∀ k : Byte, Frame s (s.handle (.skipIfPressed k)) [] 0 0 [.pc] ∧
      Frame s (s.handle (.skipIfNotPressed k)) [] 0 0 [.pc])

/-- The order of the rest of a Running cycle: a Halt ends it at once; then a quit request halts it without
a timer update; then the timer update (40_cycle.md section 2; decision D24). -/
def Obligations.CycleEndsInOrder : Prop :=
  ∀ (s : State) (sig : Signal), s.mode = .running → s.signal = some sig →
    (sig = .halt → s.finishCycle = { s with mode := .halted }) ∧
    (sig ≠ .halt → s.port.quit = true → s.finishCycle = { s.handle sig with mode := .halted }) ∧
    (sig ≠ .halt → s.port.quit = false → s.finishCycle = (s.handle sig).timerUpdate)

/-- The mode transitions, and there are no others (40_cycle.md section 3). That a quit request goes before a
key-down event and before the end of a Running cycle (D24), and the Faulted mode with its record (D35), are
the spec's own decisions (log 10). -/
def Obligations.ModeTransitions : Prop :=
  ∀ s t : State, step s = .next t →
    match s.mode with
    | .running =>
      (∃ c, s.fetch = .error c ∧ t.mode = .faulted ⟨c, s.pc, none⟩) ∨
      (∃ w u, s.fetch = .ok w ∧ executeWord w (s.beginStep.enterExecute w) = .next u ∧
        match u.signal with
        | none => ∃ c, t.mode = .faulted ⟨c, s.pc, some w⟩
        | some .halt => t.mode = .halted
        | some (.awaitKey x) => t.mode = if s.port.quit then .halted else .awaitingKey x
        | some _ => t.mode = if s.port.quit then .halted else .running)
    | .awaitingKey x => t.mode =
        if s.port.quit then .halted else if s.port.keyDown.isSome then .running else .awaitingKey x
    | .halted => t.mode = .halted
    | .faulted _ => False

/-- A step that waits for a key: a quit request first; then a key-down event writes V[x], moves `pc` to
A + 2 and resumes; else nothing. No timer is updated (40_cycle.md section 3, 45_timers_keys.md sections 3
and 4; decisions D23, D24, D32). -/
def Obligations.AwaitingKeyStep : Prop :=
  ∀ (s : State) (x : Reg), s.mode = .awaitingKey x →
    ∃ t, step s = .next t ∧ t.events = [] ∧
      (s.port.quit = true → t.mode = .halted ∧ Frame s t [] 0 0 (.mode :: stepParts)) ∧
      (s.port.quit = false → s.port.keyDown = none → Frame s t [] 0 0 stepParts) ∧
      (∀ k, s.port.quit = false → s.port.keyDown = some k →
        (t.readV x).toNat = k.toNat ∧ t.pc = s.pc + 2 ∧ t.mode = .running ∧
          Frame s t [x] 0 0 (.mode :: .pc :: stepParts))

/-- A Halted step runs the timer update and nothing else (40_cycle.md section 3, 45_timers_keys.md
section 4; decision D25). -/
def Obligations.HaltedStepOnlyUpdatesTimers : Prop :=
  ∀ s : State, s.mode = .halted →
    step s = .next s.beginStep.timerUpdate.endStep ∧
      Frame s s.beginStep.timerUpdate.endStep [] 0 0 (timerParts ++ stepParts)

/-- The timer update: whole ticks since each anchor, rounded down, are subtracted, clamped at 0; the
anchor moves to now if there was one; the sound timer reaching 0 stops the tone (45_timers_keys.md
section 4; decisions D21, D22; log 10). `clock` and the elapsed times are the model's own fields (log 3). -/
def Obligations.TimerUpdateDecays : Prop :=
  ∀ s : State,
    let t₁ := s.clock + s.port.delayElapsed
    let t₂ := t₁ + s.port.soundElapsed
    let k₁ := (t₁ - s.anchorDT) / s.cfg.tickPeriod
    let k₂ := (t₂ - s.anchorST) / s.cfg.tickPeriod
    let u := s.timerUpdate
    let stops := s.ST ≠ 0 ∧ s.ST.toNat ≤ k₂
    u.DT.toNat = s.DT.toNat - k₁ ∧ u.anchorDT = (if 0 < k₁ then t₁ else s.anchorDT) ∧
    u.ST.toNat = s.ST.toNat - k₂ ∧ u.anchorST = (if 0 < k₂ then t₂ else s.anchorST) ∧
    u.clock = t₂ ∧
    (stops → u.toneOn = false ∧ u.events = s.events ++ [.toneStop]) ∧
    (¬ stops → u.toneOn = s.toneOn ∧ u.events = s.events) ∧
    Frame s u [] 0 0 (.events :: timerParts)

/-- Only Cxkk reads the host during execution: any other instruction does the same whatever the host
answers in this step (40_cycle.md section 1, 60_exceptions.md section 4). The answers are the model's field
`port` (log 3). -/
def Obligations.ExecutorIgnoresTheHost : Prop :=
  ∀ (i : Instr) (s : State) (p : HostInputs), (∀ x kk, i ≠ .rnd x kk) →
    exec i { s with port := p } = afterNext (fun t => { t with port := p }) (exec i s)

/-- Each instruction returns the signals of the table, and no other (40_cycle.md section 2; decision D20
for the zero sets, D38 for the Halt, D18 for the key skips; log 10). -/
def Obligations.SignalsFollowTable : Prop :=
  ∀ (i : Instr) (s t : State) (sig : Signal), s.signal = none → exec i s = .next t →
    t.signal = some sig →
    match i with
    | .jp nnn => sig = if zext16 nnn = s.pc - 2 then .halt else .cont
    | .ldDTVx x => sig = if s.readV x = 0 then .cont else .timerStarted .delay
    | .ldSTVx x => sig = if s.readV x = 0 then .cont else .timerStarted .sound
    | .ldVxK x => sig = .awaitKey x
    | .skp x => sig = .skipIfPressed (s.readV x)
    | .sknp x => sig = .skipIfNotPressed (s.readV x)
    | _ => sig = .cont

/-! Frames over all instructions -/

/-- An instruction that completes changes only the V registers it writes, the bytes it stores from `I` on,
and the parts its rule writes (10_state.md sections 2 to 7, 20_memory.md sections 1 and 5). That 8xy1-8xy3
keep VF (D13), that Fx55 and Fx65 keep `I` (D19) and that Dxyn writes VF only under a parameter (D14) are the
spec's own decisions (log 10). The premise goes through `FirstError`, where a draw of no rows meets no error
(D16 as the model reads it, log 8) and the marks of what was written are the model's (log 5). The fetched
word and the signal are log 6, the event list log 7. -/
def Obligations.EveryInstructionKeepsItsFrame : Prop :=
  ∀ (i : Instr) (s t : State), (∀ c, ¬ FirstError s i c) → exec i s = .next t →
    Frame s t (i.writes s.cfg.drawSetsVF) s.I.toNat i.stores (partsOf i)

/-- Only 2nnn writes the stack, and only it and 00EE move `sp` (10_state.md section 4; decision D9: a return
does not clear its entry). -/
def Obligations.OnlyCallWritesTheStack : Prop :=
  ∀ (i : Instr) (s t : State), exec i s = .next t → (∀ nnn, i ≠ .call nnn) →
    t.stack = s.stack ∧ (i ≠ .ret → t.sp = s.sp)

/-- A 00EE executed with the `sp` and stack that a 2nnn left returns to the address after the call, with
the `sp` before it (41_flow.md section 1; decision D9 for the depth and the order of the push). -/
def Obligations.ReturnUndoesCall : Prop :=
  ∀ (s : State) (nnn : Addr12), s.sp ≠ 15 →
    ∃ t, exec (.call nnn) s = .next t ∧
      ∀ u : State, u.sp = t.sp → u.stack = t.stack →
        ∃ v, exec .ret u = .next v ∧ v.pc = s.pc ∧ v.sp = s.sp ∧ v.signal = some .cont

/-- The framebuffer is changed, and `Render` emitted, only by 00E0 and Dxyn (44_display.md section 2). -/
def Obligations.OnlyClearAndDrawTouchTheFramebuffer : Prop :=
  ∀ (i : Instr) (s t : State), exec i s = .next t → i ≠ .cls → (∀ x y n, i ≠ .drw x y n) →
    t.fb = s.fb ∧ ∀ fb, Event.render fb ∈ t.events → Event.render fb ∈ s.events

/-! Reset and the invariants of a run -/

/-- The state at execution start (10_state.md section 11, 70_reset_and_hazards.md section 1). `pc` and the
mode are the source's; the zeros are the spec's decisions D2-D7 (log 4), the glyph bytes its default
`FONT` (D8). -/
def Obligations.ResetState : Prop :=
  let s := State.reset
  s.pc = 0x200 ∧ s.mode = .running ∧ s.I = 0 ∧ s.sp = 0 ∧ s.DT = 0 ∧ s.ST = 0 ∧ s.toneOn = false ∧
  s.anchorDT = s.clock ∧ s.anchorST = s.clock ∧
  (∀ r, s.readV r = 0) ∧ (∀ j : Fin 16, s.stack[j.val] = 0) ∧ (∀ r c, pixel s.fb r c = false) ∧
  (∀ (g : Fin 16) (k : Fin 5), s.byte (0x050 + 5 * g.val + k.val) = Config.defaultFont[g.val][k.val]) ∧
  (∀ a, a < 0x050 ∨ 0x0A0 ≤ a → s.byte a = 0) ∧
  s.cfg.drawSetsVF = false ∧ s.cfg.unwrittenRead = .zero

/-- The reset state meets both invariants. Its zeros are the spec's decisions D2-D7 (log 4). -/
def Obligations.ResetMeetsInvariants : Prop :=
  State.reset.Inv ∧ State.reset.UnwrittenIsReset

/-- Every step keeps the invariant of a run: canonical memory, `I` at most 0xFFF, `pc` at most 0x10FE and
fetchable while a key is awaited, return addresses at most 0x1000, `stack[0]` never written, the tone on
exactly while ST is not 0, anchors not later than the host time read, and the cycle's own state gone (10_state.md sections 3, 4, 5 and
9; 20_memory.md section 1; 40_cycle.md sections 1 and 4; 45_timers_keys.md section 4). The bounds of `I` (D11)
and of `pc` (D10, D34), the unwritten `stack[0]` (D9), the order of host time (D22) and the tone clause (D43)
are the spec's own decisions or inferences (log 10). Canonical memory (log 14), the written marks (log 5) and
the empty fetched word and signal (log 6) are the model's choices and inferences. -/
def Obligations.StepKeepsInvariant : Prop :=
  ∀ s t : State, s.Inv → step s = .next t → t.Inv

/-- Every step keeps: state that nothing has written (as the model marks it, log 5) still holds its reset
value (10_state.md section 11). -/
def Obligations.StepKeepsUnwrittenAtReset : Prop :=
  ∀ s t : State, s.UnwrittenIsReset → step s = .next t → t.UnwrittenIsReset

/-- No step changes a parameter (00_scope.md section 3), or turns host time back (40_cycle.md section 4;
decision D22, log 10). That the parameters are state which no step changes is the model's choice (log 1), and
`clock`, the host time most recently read, is a field of the model's own (log 3). -/
def Obligations.StepKeepsParametersAndTime : Prop :=
  ∀ s t : State, step s = .next t → t.cfg = s.cfg ∧ s.clock ≤ t.clock

/-- Construction: the startup errors in their order, and else the state of execution start with the ROM's
bytes from 0x200 and nothing else; an empty ROM gives the reset state (60_exceptions.md section 1,
70_reset_and_hazards.md section 1; decision D26, log 10). That construction answers an error or a state is log
16, that it loads the program log 2, the default parameters log 1 and the free host log 3. -/
def Obligations.ConstructionLoadsTheRom : Prop :=
  ∀ (cfg : Config) (t₀ : Nat) (port : HostInputs) (script : List HostInputs),
    construct cfg t₀ port script none = .error .configNoRom ∧
    construct cfg t₀ port script (some none) = .error .ioRomUnreadable ∧
    (∀ rom : List Byte, 0xE00 < rom.length →
      construct cfg t₀ port script (some (some rom)) = .error .configRomTooLarge) ∧
    (∀ rom : List Byte, rom.length ≤ 0xE00 →
      ∃ t, construct cfg t₀ port script (some (some rom)) = .ok t ∧
        (∀ i, ∀ h : i < rom.length, t.byte (0x200 + i) = rom[i]) ∧
        Frame (State.initial cfg t₀ port script) t [] 0x200 rom.length []) ∧
    construct Config.default Config.startTime (Config.freeHost 0) [] (some (some [])) = .ok State.reset

/-! Register loads and ALU (42_alu.md) -/

/-- 6xkk (R150). -/
def Obligations.LdImmLoads : Prop :=
  ∀ (x : Reg) (kk : Byte), decodeWord (wordXKK 0x6 x kk) = .ok (.ldImm x kk) ∧
    ∀ s : State, ∃ t, exec (.ldImm x kk) s = .next t ∧ t.readV x = kk ∧
      t.signal = some .cont ∧ Frame s t [x] 0 0 [.signal]

/-- 7xkk (R151): modulo 256, VF untouched unless it is the destination. -/
def Obligations.AddImmWraps : Prop :=
  ∀ (x : Reg) (kk : Byte), decodeWord (wordXKK 0x7 x kk) = .ok (.addImm x kk) ∧
    ∀ s : State, s.CanRead [x] false → ∃ t, exec (.addImm x kk) s = .next t ∧
      (t.readV x).toNat = ((s.readV x).toNat + kk.toNat) % 256 ∧
      t.signal = some .cont ∧ Frame s t [x] 0 0 [.signal]

/-- 8xy0, 8xy2, 8xy3 (42_alu.md section 2): bit by bit, and no flag. That 8xy2 and 8xy3 keep VF is decision
D13 (log 10). -/
def Obligations.CopyAndLogic : Prop :=
  ∀ x y : Reg,
    (decodeWord (wordXYN 0x8 x y 0x0) = .ok (.ldReg x y) ∧ ∀ s : State, s.CanRead [y] false →
      ∃ t, exec (.ldReg x y) s = .next t ∧ t.readV x = s.readV y ∧
        t.signal = some .cont ∧ Frame s t [x] 0 0 [.signal]) ∧
    (decodeWord (wordXYN 0x8 x y 0x2) = .ok (.andReg x y) ∧ ∀ s : State, s.CanRead [x, y] false →
      ∃ t, exec (.andReg x y) s = .next t ∧
        (∀ b, (t.readV x).getLsbD b = ((s.readV x).getLsbD b && (s.readV y).getLsbD b)) ∧
        t.signal = some .cont ∧ Frame s t [x] 0 0 [.signal]) ∧
    (decodeWord (wordXYN 0x8 x y 0x3) = .ok (.xorReg x y) ∧ ∀ s : State, s.CanRead [x, y] false →
      ∃ t, exec (.xorReg x y) s = .next t ∧
        (∀ b, (t.readV x).getLsbD b = ((s.readV x).getLsbD b ^^ (s.readV y).getLsbD b)) ∧
        t.signal = some .cont ∧ Frame s t [x] 0 0 [.signal])

/-- 8xy1 (42_alu.md section 2; decision D13): bit by bit, and VF is not reset. -/
def Obligations.OrKeepsVF : Prop :=
  ∀ x y : Reg, decodeWord (wordXYN 0x8 x y 0x1) = .ok (.orReg x y) ∧
    ∀ s : State, s.CanRead [x, y] false → ∃ t, exec (.orReg x y) s = .next t ∧
      (∀ b, (t.readV x).getLsbD b = ((s.readV x).getLsbD b || (s.readV y).getLsbD b)) ∧
      t.signal = some .cont ∧ Frame s t [x] 0 0 [.signal]

/-- 8xy4 (42_alu.md section 3): the sum modulo 256, then VF the carry. That VF is written last, so that it
holds the carry for x = 0xF, is decision D13 (log 10). -/
def Obligations.AddRegSetsCarry : Prop :=
  ∀ x y : Reg, decodeWord (wordXYN 0x8 x y 0x4) = .ok (.addReg x y) ∧
    ∀ s : State, s.CanRead [x, y] false → ∃ t, exec (.addReg x y) s = .next t ∧
      (x ≠ vf → (t.readV x).toNat = ((s.readV x).toNat + (s.readV y).toNat) % 256) ∧
      t.readV vf = (if 255 < (s.readV x).toNat + (s.readV y).toNat then 1 else 0) ∧
      t.signal = some .cont ∧ Frame s t [x, vf] 0 0 [.signal]

/-- 8xy5 and 8xy7 (42_alu.md section 3): the difference modulo 256 into Vx (90_conflicts.md C4), then VF = 1
exactly if the minuend is strictly greater. That VF is written last, so that it holds the flag for x = 0xF, is
decision D13 (log 10). -/
def Obligations.SubtractSetsGreater : Prop :=
  ∀ x y : Reg,
    (decodeWord (wordXYN 0x8 x y 0x5) = .ok (.subReg x y) ∧ ∀ s : State, s.CanRead [x, y] false →
      ∃ t, exec (.subReg x y) s = .next t ∧
        (x ≠ vf → (t.readV x).toNat = ((s.readV x).toNat + 256 - (s.readV y).toNat) % 256) ∧
        t.readV vf = (if (s.readV y).toNat < (s.readV x).toNat then 1 else 0) ∧
        t.signal = some .cont ∧ Frame s t [x, vf] 0 0 [.signal]) ∧
    (decodeWord (wordXYN 0x8 x y 0x7) = .ok (.subn x y) ∧ ∀ s : State, s.CanRead [x, y] false →
      ∃ t, exec (.subn x y) s = .next t ∧
        (x ≠ vf → (t.readV x).toNat = ((s.readV y).toNat + 256 - (s.readV x).toNat) % 256) ∧
        t.readV vf = (if (s.readV x).toNat < (s.readV y).toNat then 1 else 0) ∧
        t.signal = some .cont ∧ Frame s t [x, vf] 0 0 [.signal])

/-- 8xy6 and 8xyE (42_alu.md section 3): Vx shifted by one, y ignored (90_conflicts.md C9), VF the bit shifted
out. That VF is written last, so that it holds that bit for x = 0xF, is decision D13 (log 10). -/
def Obligations.ShiftsSetShiftedOutBit : Prop :=
  ∀ x y : Reg,
    (decodeWord (wordXYN 0x8 x y 0x6) = .ok (.shr x y) ∧ ∀ s : State, s.CanRead [x] false →
      ∃ t, exec (.shr x y) s = .next t ∧
        (x ≠ vf → (t.readV x).toNat = (s.readV x).toNat / 2) ∧
        (t.readV vf).toNat = (s.readV x).toNat % 2 ∧
        t.signal = some .cont ∧ Frame s t [x, vf] 0 0 [.signal]) ∧
    (decodeWord (wordXYN 0x8 x y 0xE) = .ok (.shl x y) ∧ ∀ s : State, s.CanRead [x] false →
      ∃ t, exec (.shl x y) s = .next t ∧
        (x ≠ vf → (t.readV x).toNat = (s.readV x).toNat * 2 % 256) ∧
        (t.readV vf).toNat = (s.readV x).toNat / 128 ∧
        t.signal = some .cont ∧ Frame s t [x, vf] 0 0 [.signal])

/-- Cxkk (42_alu.md section 4; decision D29): the host's byte masked by kk; a failing source is fatal,
also for kk = 0. -/
def Obligations.RndMasksTheRandomByte : Prop :=
  ∀ (x : Reg) (kk : Byte), decodeWord (wordXKK 0xC x kk) = .ok (.rnd x kk) ∧
    ∀ s : State,
      (∀ r, s.port.random = some r → ∃ t, exec (.rnd x kk) s = .next t ∧ t.readV x = r &&& kk ∧
        t.signal = some .cont ∧ Frame s t [x] 0 0 [.signal]) ∧
      (s.port.random = none → exec (.rnd x kk) s = .next (s.raise .rngFailure))

/-! Control transfer (41_flow.md) -/

/-- 1nnn (41_flow.md section 1; decision D38): the jump is performed, and it is a Halt exactly if the
target is the instruction's own address. -/
def Obligations.JumpDetectsItself : Prop :=
  ∀ nnn : Addr12, decodeWord (wordNNN 0x1 nnn) = .ok (.jp nnn) ∧
    ∀ s : State, ∃ t, exec (.jp nnn) s = .next t ∧ t.pc.toNat = nnn.toNat ∧
      t.signal = some (if zext16 nnn = s.pc - 2 then .halt else .cont) ∧
      Frame s t [] 0 0 [.pc, .signal]

/-- A step of a jump to its own address halts the block with `pc` at that address, with no quit poll and
no timer update (41_flow.md section 1, 40_cycle.md section 2). The self-jump test (D38), and that a Halt ends
the step before the quit poll and the timer update (D24), are the spec's own decisions (log 10). -/
def Obligations.SelfJumpHalts : Prop :=
  ∀ (s : State) (nnn : Addr12), s.mode = .running → s.fetch = .ok (wordNNN 0x1 nnn) →
    zext16 nnn = s.pc →
    ∃ t, step s = .next t ∧ t.mode = .halted ∧ t.events = [] ∧ Frame s t [] 0 0 (.mode :: stepParts)

/-- 2nnn (41_flow.md section 1; decision D9): increment `sp`, then store the return address A + 2 there;
the 16th outstanding call is a fatal error. -/
def Obligations.CallPushesTheReturnAddress : Prop :=
  ∀ nnn : Addr12, decodeWord (wordNNN 0x2 nnn) = .ok (.call nnn) ∧
    ∀ s : State,
      (s.sp ≠ 15 → ∃ t, exec (.call nnn) s = .next t ∧ t.sp.val = s.sp.val + 1 ∧
        t.stack[t.sp.val] = s.pc ∧ (∀ j : Fin 16, j ≠ t.sp → t.stack[j.val] = s.stack[j.val]) ∧
        t.pc.toNat = nnn.toNat ∧ t.signal = some .cont ∧
        Frame s t [] 0 0 [.pc, .sp, .stack, .signal]) ∧
      (s.sp = 15 → exec (.call nnn) s = .next (s.raise .stackOverflow))

/-- 00EE (41_flow.md section 1; decision D9): to the newest return address; the entry is not cleared; an
empty stack is a fatal error. -/
def Obligations.RetPopsTheReturnAddress : Prop :=
  decodeWord 0x00EE#16 = .ok .ret ∧
    ∀ s : State,
      (s.sp ≠ 0 → ∃ t, exec .ret s = .next t ∧ t.pc = s.stack[s.sp.val] ∧
        s.sp.val = t.sp.val + 1 ∧ t.signal = some .cont ∧ Frame s t [] 0 0 [.pc, .sp, .signal]) ∧
      (s.sp = 0 → exec .ret s = .next (s.raise .stackUnderflow))

/-- 3xkk and 4xkk (R134, R135). -/
def Obligations.SkipsCompareWithImmediate : Prop :=
  ∀ (x : Reg) (kk : Byte),
    (decodeWord (wordXKK 0x3 x kk) = .ok (.seImm x kk) ∧ ∀ s : State, s.CanRead [x] false →
      ∃ t, exec (.seImm x kk) s = .next t ∧ t.pc = (if s.readV x = kk then s.pc + 2 else s.pc) ∧
        t.signal = some .cont ∧ Frame s t [] 0 0 [.pc, .signal]) ∧
    (decodeWord (wordXKK 0x4 x kk) = .ok (.sneImm x kk) ∧ ∀ s : State, s.CanRead [x] false →
      ∃ t, exec (.sneImm x kk) s = .next t ∧ t.pc = (if s.readV x = kk then s.pc else s.pc + 2) ∧
        t.signal = some .cont ∧ Frame s t [] 0 0 [.pc, .signal])

/-- 5xyd and 9xyd for every d (41_flow.md section 2; decision D17). -/
def Obligations.SkipsCompareRegisters : Prop :=
  ∀ x y : Reg,
    ((∀ d, decodeWord (wordXYN 0x5 x y d) = .ok (.seReg x y)) ∧
      ∀ s : State, s.CanRead [x, y] false →
      ∃ t, exec (.seReg x y) s = .next t ∧ t.pc = (if s.readV x = s.readV y then s.pc + 2 else s.pc) ∧
        t.signal = some .cont ∧ Frame s t [] 0 0 [.pc, .signal]) ∧
    ((∀ d, decodeWord (wordXYN 0x9 x y d) = .ok (.sneReg x y)) ∧
      ∀ s : State, s.CanRead [x, y] false →
      ∃ t, exec (.sneReg x y) s = .next t ∧ t.pc = (if s.readV x = s.readV y then s.pc else s.pc + 2) ∧
        t.signal = some .cont ∧ Frame s t [] 0 0 [.pc, .signal])

/-- Bnnn (41_flow.md section 3; decision D34): the sum is not masked to 12 bits, and it is never a
Halt. -/
def Obligations.ComputedJumpAddsV0 : Prop :=
  ∀ nnn : Addr12, decodeWord (wordNNN 0xB nnn) = .ok (.jpV0 nnn) ∧
    ∀ s : State, s.CanRead [0] false → ∃ t, exec (.jpV0 nnn) s = .next t ∧
      t.pc.toNat = nnn.toNat + (s.readV 0).toNat ∧ t.signal = some .cont ∧
      Frame s t [] 0 0 [.pc, .signal]

/-! Address register and memory (43_index_memory.md) -/

/-- Annn (R180). -/
def Obligations.LdILoadsTheAddress : Prop :=
  ∀ nnn : Addr12, decodeWord (wordNNN 0xA nnn) = .ok (.ldI nnn) ∧
    ∀ s : State, ∃ t, exec (.ldI nnn) s = .next t ∧ t.I.toNat = nnn.toNat ∧
      t.signal = some .cont ∧ Frame s t [] 0 0 [.I, .signal]

/-- Fx1E (43_index_memory.md section 1; decision D11): a sum above 0xFFF is a fatal error, and VF is not
written. The invariant `I ≤ 0xFFF` is a premise (`StepKeepsInvariant`). -/
def Obligations.AddIChecksTheRange : Prop :=
  ∀ x : Reg, decodeWord (wordXKK 0xF x 0x1E) = .ok (.addI x) ∧
    ∀ s : State, s.I.toNat ≤ 0xFFF → s.CanRead [x] true →
      (s.I.toNat + (s.readV x).toNat ≤ 0xFFF → ∃ t, exec (.addI x) s = .next t ∧
        t.I.toNat = s.I.toNat + (s.readV x).toNat ∧ t.signal = some .cont ∧
        Frame s t [] 0 0 [.I, .signal]) ∧
      (0xFFF < s.I.toNat + (s.readV x).toNat → exec (.addI x) s = .next (s.raise .addressOutOfRange))

/-- Fx29 (43_index_memory.md section 1; decision D37): Vx is used whole. -/
def Obligations.LdFPointsAtTheGlyph : Prop :=
  ∀ x : Reg, decodeWord (wordXKK 0xF x 0x29) = .ok (.ldF x) ∧
    ∀ s : State, s.CanRead [x] false → ∃ t, exec (.ldF x) s = .next t ∧
      t.I.toNat = 0x050 + 5 * (s.readV x).toNat ∧ t.signal = some .cont ∧
      Frame s t [] 0 0 [.I, .signal]

/-- Fx33 (43_index_memory.md section 2; decision D12): hundreds, tens, units at I, I + 1, I + 2; a run
past 0xFFF is a fatal error. -/
def Obligations.LdBStoresTheDigits : Prop :=
  ∀ x : Reg, decodeWord (wordXKK 0xF x 0x33) = .ok (.ldB x) ∧
    ∀ s : State, s.CanRead [x] true →
      (s.I.toNat + 2 ≤ 0xFFF → ∃ t, exec (.ldB x) s = .next t ∧
        (t.byte s.I.toNat).toNat = (s.readV x).toNat / 100 ∧
        (t.byte (s.I.toNat + 1)).toNat = (s.readV x).toNat / 10 % 10 ∧
        (t.byte (s.I.toNat + 2)).toNat = (s.readV x).toNat % 10 ∧
        t.signal = some .cont ∧ Frame s t [] s.I.toNat 3 [.signal]) ∧
      (0xFFF < s.I.toNat + 2 → exec (.ldB x) s = .next (s.raise .addressOutOfRange))

/-- Fx55 (43_index_memory.md section 2; decisions D12, D19): V0 to Vx at I to I + x; I is unchanged; a run
past 0xFFF is a fatal error. -/
def Obligations.StoreRegsStoresV0ToVx : Prop :=
  ∀ x : Reg, decodeWord (wordXKK 0xF x 0x55) = .ok (.storeRegs x) ∧
    ∀ s : State, (∀ r : Reg, r.toNat ≤ x.toNat → s.CanRead [r] true) →
      (s.I.toNat + x.toNat ≤ 0xFFF → ∃ t, exec (.storeRegs x) s = .next t ∧
        (∀ r : Reg, r.toNat ≤ x.toNat → t.byte (s.I.toNat + r.toNat) = s.readV r) ∧
        t.signal = some .cont ∧ Frame s t [] s.I.toNat (x.toNat + 1) [.signal]) ∧
      (0xFFF < s.I.toNat + x.toNat → exec (.storeRegs x) s = .next (s.raise .addressOutOfRange))

/-- Fx65 (43_index_memory.md section 2; decisions D12, D19): V0 to Vx from I to I + x; the registers above
x, I and memory are unchanged; a run past 0xFFF is a fatal error. -/
def Obligations.LoadRegsLoadsV0ToVx : Prop :=
  ∀ x : Reg, decodeWord (wordXKK 0xF x 0x65) = .ok (.loadRegs x) ∧
    ∀ s : State, s.CanRead [] true →
      (s.I.toNat + x.toNat ≤ 0xFFF → s.CanReadBytes s.I.toNat (x.toNat + 1) →
        ∃ t, exec (.loadRegs x) s = .next t ∧
        (∀ r : Reg, r.toNat ≤ x.toNat → t.readV r = s.byte (s.I.toNat + r.toNat)) ∧
        t.signal = some .cont ∧ Frame s t (regsUpTo x) 0 0 [.signal]) ∧
      (0xFFF < s.I.toNat + x.toNat → exec (.loadRegs x) s = .next (s.raise .addressOutOfRange))

/-! Framebuffer (44_display.md) -/

/-- 00E0 (R200). -/
def Obligations.ClsClearsTheFramebuffer : Prop :=
  decodeWord 0x00E0#16 = .ok .cls ∧
    ∀ s : State, ∃ t, exec .cls s = .next t ∧ (∀ r c, pixel t.fb r c = false) ∧
      t.events = s.events ++ [.render t.fb] ∧ t.signal = some .cont ∧
      Frame s t [] 0 0 [.fb, .events, .signal]

/-- Dxyn (44_display.md section 2; decisions D12, D14-D16): a pixel is inverted exactly if a 1 bit of the
sprite lands on it, with every coordinate modulo 64 and 32; one `Render`; VF is written only if
`DRAW_SETS_VF`, with 1 exactly if a pixel went from on to off. Bit 7 leftmost is
D15 (PRESUMED, log 11). n = 0 asks nothing of the operands (D16 as the model reads it, log 8). -/
def Obligations.DrawXorsTheSprite : Prop :=
  ∀ (x y : Reg) (n : Nibble), decodeWord (wordXYN 0xD x y n) = .ok (.drw x y n) ∧
    ∀ s : State, (n ≠ 0 → s.CanRead [x, y] true) → s.RunFits n.toNat → s.CanReadBytes s.I.toNat n.toNat →
      let covers := SpriteCovers (s.readV x) (s.readV y) (s.loadBytes s.I.toNat n.toNat)
      ∃ t, exec (.drw x y n) s = .next t ∧
        (∀ r c, pixel t.fb r c ≠ pixel s.fb r c ↔ covers r c) ∧
        t.events = s.events ++ [.render t.fb] ∧ t.signal = some .cont ∧
        (s.cfg.drawSetsVF = true →
          (t.readV vf = 1 ∧ ∃ r c, covers r c ∧ pixel s.fb r c = true) ∨
          (t.readV vf = 0 ∧ ¬ ∃ r c, covers r c ∧ pixel s.fb r c = true)) ∧
        Frame s t (if s.cfg.drawSetsVF then [vf] else []) 0 0 [.fb, .events, .signal]

/-- The same Dxyn from the state it left, with the same coordinates, I and sprite bytes, gives the
framebuffer before the first draw back; with `DRAW_SETS_VF`, VF then says whether a 1 bit of the sprite
landed on a pixel that was off (44_display.md section 2, where the spec marks the law as its own derivation).
The VF clause rests on the bit order of `SpriteCovers` (D15, PRESUMED, log 11) and on the parameter of D14
(log 1, log 10); the premises go through `FirstError`, where a draw of no rows meets no error (log 8). -/
def Obligations.DrawTwiceRestores : Prop :=
  ∀ (x y : Reg) (n : Nibble) (s t u : State),
    (∀ c, ¬ FirstError s (.drw x y n) c) → exec (.drw x y n) s = .next t →
    (∀ c, ¬ FirstError u (.drw x y n) c) → u.fb = t.fb → u.readV x = s.readV x → u.readV y = s.readV y →
    u.I = s.I → (∀ i, i < n.toNat → u.byte (s.I.toNat + i) = s.byte (s.I.toNat + i)) →
    ∃ v, exec (.drw x y n) u = .next v ∧ v.fb = s.fb ∧
      (u.cfg.drawSetsVF = true → (v.readV vf = 1 ↔ ∃ r c,
        SpriteCovers (s.readV x) (s.readV y) (s.loadBytes s.I.toNat n.toNat) r c ∧
          pixel s.fb r c = false))

/-! Timers and keys (45_timers_keys.md) -/

/-- Fx07, Fx15, Fx18 (45_timers_keys.md section 2; decisions D20, D33). -/
def Obligations.TimerInstructions : Prop :=
  ∀ x : Reg,
    (decodeWord (wordXKK 0xF x 0x07) = .ok (.ldVxDT x) ∧ ∀ s : State,
      ∃ t, exec (.ldVxDT x) s = .next t ∧ t.readV x = s.DT ∧ t.signal = some .cont ∧
        Frame s t [x] 0 0 [.signal]) ∧
    (decodeWord (wordXKK 0xF x 0x15) = .ok (.ldDTVx x) ∧ ∀ s : State, s.CanRead [x] false →
      ∃ t, exec (.ldDTVx x) s = .next t ∧ t.DT = s.readV x ∧
        t.signal = some (if s.readV x = 0 then .cont else .timerStarted .delay) ∧
        Frame s t [] 0 0 [.DT, .signal]) ∧
    (decodeWord (wordXKK 0xF x 0x18) = .ok (.ldSTVx x) ∧ ∀ s : State, s.CanRead [x] false →
      ∃ t, exec (.ldSTVx x) s = .next t ∧ t.ST = s.readV x ∧
        t.signal = some (if s.readV x = 0 then .cont else .timerStarted .sound) ∧
        (s.readV x = 0 → s.ST ≠ 0 → t.toneOn = false ∧ t.events = s.events ++ [.toneStop] ∧
          Frame s t [] 0 0 [.ST, .signal, .toneOn, .events]) ∧
        (s.readV x ≠ 0 ∨ s.ST = 0 → Frame s t [] 0 0 [.ST, .signal]))

/-- Ex9E and ExA1 (45_timers_keys.md section 3; decision D18): the executor returns the whole of Vx, and
the step moves `pc` by 2 more exactly as the host's answer says. -/
def Obligations.KeySkips : Prop :=
  ∀ x : Reg,
    decodeWord (wordXKK 0xE x 0x9E) = .ok (.skp x) ∧ decodeWord (wordXKK 0xE x 0xA1) = .ok (.sknp x) ∧
    (∀ s : State, s.CanRead [x] false →
      (∃ t, exec (.skp x) s = .next t ∧ t.signal = some (.skipIfPressed (s.readV x)) ∧
        Frame s t [] 0 0 [.signal]) ∧
      (∃ t, exec (.sknp x) s = .next t ∧ t.signal = some (.skipIfNotPressed (s.readV x)) ∧
        Frame s t [] 0 0 [.signal])) ∧
    (∀ s : State, s.mode = .running → s.CanRead [x] false →
      let down := ∃ h : (s.readV x).toNat < 16, s.port.pressed[(s.readV x).toNat] = true
      (s.fetch = .ok (wordXKK 0xE x 0x9E) → ∃ t, step s = .next t ∧
        (down → t.pc = s.pc + 4) ∧ (¬ down → t.pc = s.pc + 2)) ∧
      (s.fetch = .ok (wordXKK 0xE x 0xA1) → ∃ t, step s = .next t ∧
        (down → t.pc = s.pc + 2) ∧ (¬ down → t.pc = s.pc + 4)))

/-- Fx0A (45_timers_keys.md section 3; decision D23): `pc` is rewound to A and the step ends waiting for a
key, or Halted if a quit is requested; Vx is not written yet. -/
def Obligations.KeyWaitBegins : Prop :=
  ∀ x : Reg, decodeWord (wordXKK 0xF x 0x0A) = .ok (.ldVxK x) ∧
    (∀ s : State, ∃ t, exec (.ldVxK x) s = .next t ∧ t.pc = s.pc - 2 ∧ t.signal = some (.awaitKey x) ∧
      Frame s t [] 0 0 [.pc, .signal]) ∧
    (∀ s : State, s.mode = .running → s.fetch = .ok (wordXKK 0xF x 0x0A) →
      ∃ t, step s = .next t ∧ t.mode = (if s.port.quit then .halted else .awaitingKey x) ∧
        Frame s t [] 0 0 (.mode :: timerParts ++ stepParts))

/-! Framebuffer: the draw of no rows (44_display.md section 2) -/

/-- Dxy0 meets no error and completes in every state, whatever was written: no pixel changes, one `Render` is
emitted, and VF is written only if `DRAW_SETS_VF`, with 0 (decisions D12, D14, D16; log 8). -/
def Obligations.DrawOfNoRowsRenders : Prop :=
  ∀ (x y : Reg) (s : State), (∀ c, ¬ FirstError s (.drw x y 0) c) ∧
    ∃ t, exec (.drw x y 0) s = .next t ∧ t.events = s.events ++ [.render s.fb] ∧
      t.signal = some .cont ∧ (s.cfg.drawSetsVF = true → t.readV vf = 0) ∧
      Frame s t (if s.cfg.drawSetsVF then [vf] else []) 0 0 [.events, .signal]
end

