-- ==== Sys2Proof/Laws/Decode.lean ====
section
/-! SUPPORT. The fields of a built word, and the words that the fields make up. -/

namespace Sys2Proof.Laws

/-- A slice that falls into the low part of an append. -/
theorem slice_append_low {m n : Nat} (u : BitVec m) (v : BitVec n) (lo len : Nat) (h : lo + len ≤ n) :
    (u ++ v).extractLsb' lo len = v.extractLsb' lo len := by
  ext i hi
  simp [BitVec.getElem_extractLsb', BitVec.getLsbD_append, show lo + i < n by omega]

/-- A slice that falls into the high part of an append. -/
theorem slice_append_high {m n : Nat} (u : BitVec m) (v : BitVec n) (lo len : Nat) :
    (u ++ v).extractLsb' (n + lo) len = u.extractLsb' lo len := by
  ext i hi
  simp [BitVec.getLsbD_append, show ¬ n + lo + i < n by omega,
    show n + lo + i - n = lo + i by omega]

theorem slice_whole {n : Nat} (v : BitVec n) : v.extractLsb' 0 n = v := by
  ext i hi; simp

section
variable (a : Nibble) (x y : Reg) (n : Nibble) (kk : Byte) (nnn : Addr12)

@[simp] theorem opField_wordNNN : opField (wordNNN a nnn) = a :=
  (slice_append_high a nnn 0 4).trans (slice_whole a)

@[simp] theorem nnnField_wordNNN : nnnField (wordNNN a nnn) = nnn :=
  (slice_append_low a nnn 0 12 (by decide)).trans (slice_whole nnn)

@[simp] theorem opField_wordXKK : opField (wordXKK a x kk) = a :=
  (slice_append_high (a ++ x) kk 4 4).trans
    ((slice_append_high a x 0 4).trans (slice_whole a))

@[simp] theorem xField_wordXKK : xField (wordXKK a x kk) = x :=
  (slice_append_high (a ++ x) kk 0 4).trans
    ((slice_append_low a x 0 4 (by decide)).trans (slice_whole x))

@[simp] theorem kkField_wordXKK : kkField (wordXKK a x kk) = kk :=
  (slice_append_low (a ++ x) kk 0 8 (by decide)).trans (slice_whole kk)

@[simp] theorem opField_wordXYN : opField (wordXYN a x y n) = a :=
  (slice_append_high (a ++ x ++ y) n 8 4).trans
    ((slice_append_high (a ++ x) y 4 4).trans
      ((slice_append_high a x 0 4).trans (slice_whole a)))

@[simp] theorem xField_wordXYN : xField (wordXYN a x y n) = x :=
  (slice_append_high (a ++ x ++ y) n 4 4).trans
    ((slice_append_high (a ++ x) y 0 4).trans
      ((slice_append_low a x 0 4 (by decide)).trans (slice_whole x)))

@[simp] theorem yField_wordXYN : yField (wordXYN a x y n) = y :=
  (slice_append_high (a ++ x ++ y) n 0 4).trans
    ((slice_append_low (a ++ x) y 0 4 (by decide)).trans (slice_whole y))

@[simp] theorem nField_wordXYN : nField (wordXYN a x y n) = n :=
  (slice_append_low (a ++ x ++ y) n 0 4 (by decide)).trans (slice_whole n)

end

/-- Two slices next to each other make one. -/
theorem slice_join {k : Nat} (w : BitVec k) (lo m n : Nat) :
    w.extractLsb' (lo + n) m ++ w.extractLsb' lo n = w.extractLsb' lo (m + n) := by
  ext i hi
  simp only [BitVec.getElem_append, BitVec.getElem_extractLsb']
  split
  · rfl
  · rw [show lo + n + (i - n) = lo + i by omega]

/-- A word is its top nibble and `nnn`. -/
theorem wordNNN_fields (w : Word) : wordNNN (opField w) (nnnField w) = w :=
  (slice_join w 0 4 12).trans (slice_whole w)

/-- `kk` is `y` and `n`. -/
theorem kkField_eq (w : Word) : yField w ++ nField w = kkField w := slice_join w 0 4 4

/-- A word is its top nibble, `x` and `kk`. -/
theorem wordXKK_fields (w : Word) : wordXKK (opField w) (xField w) (kkField w) = w := by
  have h : opField w ++ xField w = w.extractLsb' 8 8 := slice_join w 8 4 4
  rw [wordXKK, h]
  exact (slice_join w 0 8 8).trans (slice_whole w)

/-- A word is its four nibbles (00_scope.md R7). -/
theorem wordXYN_fields (w : Word) : wordXYN (opField w) (xField w) (yField w) (nField w) = w := by
  have h : opField w ++ xField w = w.extractLsb' 8 8 := slice_join w 8 4 4
  have h' : w.extractLsb' 8 8 ++ yField w = w.extractLsb' 4 12 := slice_join w 4 8 4
  rw [wordXYN, h, h']
  exact (slice_join w 0 12 4).trans (slice_whole w)

/-- The two bytes of a word make it up again: memory holds it big-endian (20_memory.md R52). -/
@[simp] theorem wordOf_bytes (w : Word) : wordOf (w.extractLsb' 8 8) (w.extractLsb' 0 8) = w :=
  (slice_join w 0 8 8).trans (slice_whole w)

/-- The numeric value of a fetched word: `hi·256 + lo` (00_scope.md R8). -/
theorem wordOf_toNat (hi lo : Byte) : (wordOf hi lo).toNat = hi.toNat * 256 + lo.toNat := by
  rw [wordOf, BitVec.toNat_append, Nat.shiftLeft_eq, ← Nat.shiftLeft_eq]
  rw [← Nat.shiftLeft_add_eq_or_of_lt lo.isLt, Nat.shiftLeft_eq]

/-- Decoding the two bytes of a word is decoding the word (30_encoding.md R70). -/
theorem decode_wordBytes (w : Word) (rest : List Byte) :
    decode (wordBytes w ++ rest) =
      match decodeWord w with
      | .ok i => .ok (i, rest)
      | .error r => .error r := by
  have h : decode (wordBytes w ++ rest) =
      match decodeWord (wordOf (w.extractLsb' 8 8) (w.extractLsb' 0 8)) with
      | .ok i => .ok (i, rest)
      | .error r => .error r := rfl
  rw [h, wordOf_bytes]

/-- The operand types hold exactly the well-formed operands (R72). -/
theorem wf_all (i : Instr) : i.wf = true := by
  cases i <;> simp [Instr.wf, isReg, isImm, isAddr, isRows, memSize] <;> bv_omega

end Sys2Proof.Laws
end

