-- ==== Sys2Proof/Laws/Display.lean ====
section
/-! SUPPORT. Pixels of the framebuffer after each operation of the draw engine, and what a whole sprite does. -/

namespace Sys2Proof.Machine

theorem pixel_setPixel (fb : Framebuffer) (r r' : Fin 32) (c c' : Fin 64) (p : Bool) :
    pixel (setPixel fb r c p) r' c' = if r' = r ∧ c' = c then p else pixel fb r' c' := by
  unfold pixel setPixel
  by_cases hr : r' = r
  · subst hr
    by_cases hc : c' = c
    · subst hc; simp
    · have : c.val ≠ c'.val := fun e => hc (Fin.ext e.symm)
      simp [hc, this]
  · have : r.val ≠ r'.val := fun e => hr (Fin.ext e.symm)
    simp [hr, this]

@[simp] theorem pixel_blank (r : Fin 32) (c : Fin 64) : pixel blankFb r c = false := by
  simp [pixel, blankFb]

/-- Two framebuffers with the same pixels are the same. -/
theorem fb_ext {fb fb' : Framebuffer} (h : ∀ r c, pixel fb r c = pixel fb' r c) : fb = fb' := by
  ext r hr c hc
  exact h ⟨r, hr⟩ ⟨c, hc⟩

/-- A toggle inverts its pixel and leaves every other alone (44_display.md R202). -/
theorem pixel_togglePixel (d : Framebuffer × Bool) (r r' : Fin 32) (c c' : Fin 64) :
    pixel (togglePixel d r c).1 r' c' = (pixel d.1 r' c' ^^ decide (r' = r ∧ c' = c)) := by
  rw [togglePixel, pixel_setPixel]
  by_cases h : r' = r ∧ c' = c
  · obtain ⟨rfl, rfl⟩ := h; simp
  · simp [h]

/-- `collided` says whether the toggled pixel was on, or an earlier one (R202). -/
@[simp] theorem togglePixel_collided (d : Framebuffer × Bool) (r : Fin 32) (c : Fin 64) :
    (togglePixel d r c).2 = (d.2 || pixel d.1 r c) := rfl

@[simp] theorem rowOf_val (n : Nat) : (rowOf n).val = n % 32 := rfl

@[simp] theorem colOf_val (n : Nat) : (colOf n).val = n % 64 := rfl

@[simp] theorem drawRows_nil (cx ry : Nat) (d : Framebuffer × Bool) : drawRows cx ry [] d = d := rfl

@[simp] theorem drawRows_cons (cx ry : Nat) (b : Byte) (bs : List Byte) (d : Framebuffer × Bool) :
    drawRows cx ry (b :: bs) d = drawRows cx (ry + 1) bs (drawByte cx ry b d) := rfl

/-! A sprite as the list of pixels it toggles. -/

/-- Toggle a list of pixels, one after the other. -/
def togglePixels (ps : List (Fin 32 × Fin 64)) (d : Framebuffer × Bool) : Framebuffer × Bool :=
  ps.foldl (fun d p => togglePixel d p.1 p.2) d

theorem pixel_togglePixels (ps : List (Fin 32 × Fin 64)) (hn : ps.Nodup) (d : Framebuffer × Bool)
    (r : Fin 32) (c : Fin 64) :
    pixel (togglePixels ps d).1 r c = (pixel d.1 r c ^^ decide ((r, c) ∈ ps)) := by
  induction ps generalizing d with
  | nil => simp [togglePixels]
  | cons p ps ih =>
    obtain ⟨hp, hn⟩ := List.nodup_cons.1 hn
    rw [togglePixels, List.foldl_cons, ← togglePixels, ih hn, pixel_togglePixel]
    by_cases h : (r, c) = p
    · subst h; simp [hp]
    · have h' : ¬ (r = p.1 ∧ c = p.2) := fun e => h (Prod.ext e.1 e.2)
      simp [h, h']

theorem togglePixels_collided (ps : List (Fin 32 × Fin 64)) (hn : ps.Nodup) (d : Framebuffer × Bool) :
    (togglePixels ps d).2 = true ↔ d.2 = true ∨ ∃ p ∈ ps, pixel d.1 p.1 p.2 = true := by
  induction ps generalizing d with
  | nil => simp [togglePixels]
  | cons p ps ih =>
    obtain ⟨hp, hn⟩ := List.nodup_cons.1 hn
    have other : ∀ q ∈ ps, pixel (togglePixel d p.1 p.2).1 q.1 q.2 = pixel d.1 q.1 q.2 := by
      intro q hq
      have : ¬ (q.1 = p.1 ∧ q.2 = p.2) := fun e => hp (Prod.ext e.1 e.2 ▸ hq)
      simp [pixel_togglePixel, this]
    rw [togglePixels, List.foldl_cons, ← togglePixels, ih hn, togglePixel_collided, Bool.or_eq_true,
      or_assoc, exists_congr fun q => and_congr_right fun hq => by rw [other q hq]]
    simp only [List.mem_cons, or_and_right, exists_or, exists_eq_left]

/-- The pixels one sprite byte toggles. -/
def bytePixels (cx ry : Nat) (b : Byte) : List (Fin 32 × Fin 64) :=
  ((List.range 8).filter (spriteBit b)).map fun j => (rowOf ry, colOf (cx + j))

/-- The pixels a sprite toggles. -/
def spritePixels (cx : Nat) : Nat → List Byte → List (Fin 32 × Fin 64)
  | _, [] => []
  | ry, b :: bs => bytePixels cx ry b ++ spritePixels cx (ry + 1) bs

theorem drawByte_eq (cx ry : Nat) (b : Byte) (d : Framebuffer × Bool) :
    drawByte cx ry b d = togglePixels (bytePixels cx ry b) d := by
  unfold drawByte bytePixels togglePixels
  rw [List.foldl_map]
  generalize List.range 8 = l
  induction l generalizing d with
  | nil => rfl
  | cons j l ih =>
    rw [List.foldl_cons, ih]
    by_cases h : spriteBit b j = true <;> simp [h]

theorem drawRows_eq (cx ry : Nat) (bs : List Byte) (d : Framebuffer × Bool) :
    drawRows cx ry bs d = togglePixels (spritePixels cx ry bs) d := by
  induction bs generalizing ry d with
  | nil => rfl
  | cons b bs ih =>
    rw [drawRows_cons, ih, drawByte_eq]
    simp [spritePixels, togglePixels, List.foldl_append]

theorem mem_bytePixels (cx ry : Nat) (b : Byte) (r : Fin 32) (c : Fin 64) :
    (r, c) ∈ bytePixels cx ry b ↔
      ∃ j, j < 8 ∧ spriteBit b j = true ∧ r.val = ry % 32 ∧ c.val = (cx + j) % 64 := by
  simp only [bytePixels, List.mem_map, List.mem_filter, List.mem_range, Prod.ext_iff, Fin.ext_iff,
    rowOf_val, colOf_val, eq_comm, and_assoc]

theorem mem_spritePixels (cx ry : Nat) (bs : List Byte) (r : Fin 32) (c : Fin 64) :
    (r, c) ∈ spritePixels cx ry bs ↔ ∃ i j, ∃ h : i < bs.length, j < 8 ∧ spriteBit bs[i] j = true ∧
      r.val = (ry + i) % 32 ∧ c.val = (cx + j) % 64 := by
  induction bs generalizing ry with
  | nil => simp [spritePixels]
  | cons b bs ih =>
    rw [spritePixels, List.mem_append, mem_bytePixels, ih]
    constructor
    · rintro (⟨j, h⟩ | ⟨i, j, hi, h1, h2, h3, h4⟩)
      · exact ⟨0, j, by simp, by simpa using h⟩
      · exact ⟨i + 1, j, by simpa using hi, h1, by simpa using h2, by rw [h3]; congr 1; omega, h4⟩
    · rintro ⟨i, j, hi, h1, h2, h3, h4⟩
      cases i with
      | zero => exact .inl ⟨j, h1, by simpa using h2, by simpa using h3, h4⟩
      | succ i => exact .inr ⟨i, j, by simpa using hi, h1, by simpa using h2, by rw [h3]; congr 1; omega, h4⟩

/-- No two bits of one sprite land on the same pixel (R201). -/
theorem spritePixels_nodup (cx ry : Nat) (bs : List Byte) (hl : bs.length ≤ 32) :
    (spritePixels cx ry bs).Nodup := by
  induction bs generalizing ry with
  | nil => simp [spritePixels]
  | cons b bs ih =>
    rw [List.length_cons] at hl
    rw [spritePixels, List.nodup_append]
    refine ⟨?_, ih _ (by omega), ?_⟩
    · refine (List.nodup_map_iff_inj_on (List.nodup_range.filter _)).2 fun i hi j hj h => ?_
      simp only [List.mem_filter, List.mem_range] at hi hj
      simp only [Prod.ext_iff, Fin.ext_iff, colOf_val] at h
      omega
    · rintro ⟨r, c⟩ h1 ⟨r', c'⟩ h2 he
      cases he
      obtain ⟨j, _, _, e1, _⟩ := (mem_bytePixels ..).1 h1
      obtain ⟨i, j', hi, _, _, e2, _⟩ := (mem_spritePixels ..).1 h2
      omega

/-- A draw inverts exactly the pixels that the sprite covers, and `collided` says whether one of them was
on (44_display.md R201-R203). -/
theorem drawRows_spec (cx ry : Byte) (bs : List Byte) (hl : bs.length ≤ 32) (fb : Framebuffer) :
    (∀ r c, pixel (drawRows cx.toNat ry.toNat bs (fb, false)).1 r c ≠ pixel fb r c ↔
      SpriteCovers cx ry bs r c) ∧
    ((drawRows cx.toNat ry.toNat bs (fb, false)).2 = true ↔
      ∃ r c, SpriteCovers cx ry bs r c ∧ pixel fb r c = true) := by
  have hn := spritePixels_nodup cx.toNat ry.toNat bs hl
  have covers : ∀ r c, (r, c) ∈ spritePixels cx.toNat ry.toNat bs ↔ SpriteCovers cx ry bs r c :=
    mem_spritePixels cx.toNat ry.toNat bs
  rw [drawRows_eq]
  refine ⟨fun r c => ?_, ?_⟩
  · rw [pixel_togglePixels _ hn, ← covers]
    by_cases h : (r, c) ∈ spritePixels cx.toNat ry.toNat bs <;> simp [h]
  · rw [togglePixels_collided _ hn]
    simp only [Bool.false_eq_true, false_or, Prod.exists, covers]

end Sys2Proof.Machine
end

