-- ==== Sys2Proof/Laws/State.lean ====
section
/-! SUPPORT. One lemma for each field after each operation that updates the state, so that no later proof unfolds a record update. -/

namespace Sys2Proof.Machine.State

variable (s : State)

@[simp] theorem writeV_mem (r : Reg) (b : Byte) : (s.writeV r b).mem = s.mem := rfl
@[simp] theorem writeV_V (r : Reg) (b : Byte) : (s.writeV r b).V = s.V.set r.toNat b r.isLt := rfl
@[simp] theorem writeV_I (r : Reg) (b : Byte) : (s.writeV r b).I = s.I := rfl
@[simp] theorem writeV_pc (r : Reg) (b : Byte) : (s.writeV r b).pc = s.pc := rfl
@[simp] theorem writeV_sp (r : Reg) (b : Byte) : (s.writeV r b).sp = s.sp := rfl
@[simp] theorem writeV_stack (r : Reg) (b : Byte) : (s.writeV r b).stack = s.stack := rfl
@[simp] theorem writeV_DT (r : Reg) (b : Byte) : (s.writeV r b).DT = s.DT := rfl
@[simp] theorem writeV_ST (r : Reg) (b : Byte) : (s.writeV r b).ST = s.ST := rfl
@[simp] theorem writeV_anchorDT (r : Reg) (b : Byte) : (s.writeV r b).anchorDT = s.anchorDT := rfl
@[simp] theorem writeV_anchorST (r : Reg) (b : Byte) : (s.writeV r b).anchorST = s.anchorST := rfl
@[simp] theorem writeV_toneOn (r : Reg) (b : Byte) : (s.writeV r b).toneOn = s.toneOn := rfl
@[simp] theorem writeV_mode (r : Reg) (b : Byte) : (s.writeV r b).mode = s.mode := rfl
@[simp] theorem writeV_fb (r : Reg) (b : Byte) : (s.writeV r b).fb = s.fb := rfl
@[simp] theorem writeV_written (r : Reg) (b : Byte) : (s.writeV r b).written = { s.written with V := s.written.V.set r.toNat true r.isLt } := rfl
@[simp] theorem writeV_fetched (r : Reg) (b : Byte) : (s.writeV r b).fetched = s.fetched := rfl
@[simp] theorem writeV_signal (r : Reg) (b : Byte) : (s.writeV r b).signal = s.signal := rfl
@[simp] theorem writeV_events (r : Reg) (b : Byte) : (s.writeV r b).events = s.events := rfl
@[simp] theorem writeV_cfg (r : Reg) (b : Byte) : (s.writeV r b).cfg = s.cfg := rfl
@[simp] theorem writeV_clock (r : Reg) (b : Byte) : (s.writeV r b).clock = s.clock := rfl
@[simp] theorem writeV_port (r : Reg) (b : Byte) : (s.writeV r b).port = s.port := rfl
@[simp] theorem writeV_script (r : Reg) (b : Byte) : (s.writeV r b).script = s.script := rfl
@[simp] theorem writeV_drawn (r : Reg) (b : Byte) : (s.writeV r b).drawn = s.drawn := rfl
@[simp] theorem writeV_byte (r : Reg) (b : Byte) (z : Nat) : (s.writeV r b).byte z = s.byte z := rfl
@[simp] theorem writeV_byteWritten (r : Reg) (b : Byte) (z : Nat) : (s.writeV r b).byteWritten z = s.byteWritten z := rfl

@[simp] theorem loadV_mem (a : Nat) (x : Reg) : (s.loadV a x).mem = s.mem := by simp only [loadV]
@[simp] theorem loadV_V (a : Nat) (x : Reg) : (s.loadV a x).V = s.loadedV a x := by simp only [loadV]
@[simp] theorem loadV_I (a : Nat) (x : Reg) : (s.loadV a x).I = s.I := by simp only [loadV]
@[simp] theorem loadV_pc (a : Nat) (x : Reg) : (s.loadV a x).pc = s.pc := by simp only [loadV]
@[simp] theorem loadV_sp (a : Nat) (x : Reg) : (s.loadV a x).sp = s.sp := by simp only [loadV]
@[simp] theorem loadV_stack (a : Nat) (x : Reg) : (s.loadV a x).stack = s.stack := by simp only [loadV]
@[simp] theorem loadV_DT (a : Nat) (x : Reg) : (s.loadV a x).DT = s.DT := by simp only [loadV]
@[simp] theorem loadV_ST (a : Nat) (x : Reg) : (s.loadV a x).ST = s.ST := by simp only [loadV]
@[simp] theorem loadV_anchorDT (a : Nat) (x : Reg) : (s.loadV a x).anchorDT = s.anchorDT := by simp only [loadV]
@[simp] theorem loadV_anchorST (a : Nat) (x : Reg) : (s.loadV a x).anchorST = s.anchorST := by simp only [loadV]
@[simp] theorem loadV_toneOn (a : Nat) (x : Reg) : (s.loadV a x).toneOn = s.toneOn := by simp only [loadV]
@[simp] theorem loadV_mode (a : Nat) (x : Reg) : (s.loadV a x).mode = s.mode := by simp only [loadV]
@[simp] theorem loadV_fb (a : Nat) (x : Reg) : (s.loadV a x).fb = s.fb := by simp only [loadV]
@[simp] theorem loadV_written (a : Nat) (x : Reg) : (s.loadV a x).written = { s.written with V := s.markedV x } := by simp only [loadV]
@[simp] theorem loadV_fetched (a : Nat) (x : Reg) : (s.loadV a x).fetched = s.fetched := by simp only [loadV]
@[simp] theorem loadV_signal (a : Nat) (x : Reg) : (s.loadV a x).signal = s.signal := by simp only [loadV]
@[simp] theorem loadV_events (a : Nat) (x : Reg) : (s.loadV a x).events = s.events := by simp only [loadV]
@[simp] theorem loadV_cfg (a : Nat) (x : Reg) : (s.loadV a x).cfg = s.cfg := by simp only [loadV]
@[simp] theorem loadV_clock (a : Nat) (x : Reg) : (s.loadV a x).clock = s.clock := by simp only [loadV]
@[simp] theorem loadV_port (a : Nat) (x : Reg) : (s.loadV a x).port = s.port := by simp only [loadV]
@[simp] theorem loadV_script (a : Nat) (x : Reg) : (s.loadV a x).script = s.script := by simp only [loadV]
@[simp] theorem loadV_drawn (a : Nat) (x : Reg) : (s.loadV a x).drawn = s.drawn := by simp only [loadV]
@[simp] theorem loadV_byte (a : Nat) (x : Reg) (z : Nat) : (s.loadV a x).byte z = s.byte z := by simp only [loadV, byte]
@[simp] theorem loadV_byteWritten (a : Nat) (x : Reg) (z : Nat) : (s.loadV a x).byteWritten z = s.byteWritten z := by simp only [loadV, byteWritten]

@[simp] theorem writeI_mem (v : Word) : (s.writeI v).mem = s.mem := rfl
@[simp] theorem writeI_V (v : Word) : (s.writeI v).V = s.V := rfl
@[simp] theorem writeI_I (v : Word) : (s.writeI v).I = v := rfl
@[simp] theorem writeI_pc (v : Word) : (s.writeI v).pc = s.pc := rfl
@[simp] theorem writeI_sp (v : Word) : (s.writeI v).sp = s.sp := rfl
@[simp] theorem writeI_stack (v : Word) : (s.writeI v).stack = s.stack := rfl
@[simp] theorem writeI_DT (v : Word) : (s.writeI v).DT = s.DT := rfl
@[simp] theorem writeI_ST (v : Word) : (s.writeI v).ST = s.ST := rfl
@[simp] theorem writeI_anchorDT (v : Word) : (s.writeI v).anchorDT = s.anchorDT := rfl
@[simp] theorem writeI_anchorST (v : Word) : (s.writeI v).anchorST = s.anchorST := rfl
@[simp] theorem writeI_toneOn (v : Word) : (s.writeI v).toneOn = s.toneOn := rfl
@[simp] theorem writeI_mode (v : Word) : (s.writeI v).mode = s.mode := rfl
@[simp] theorem writeI_fb (v : Word) : (s.writeI v).fb = s.fb := rfl
@[simp] theorem writeI_written (v : Word) : (s.writeI v).written = { s.written with I := true } := rfl
@[simp] theorem writeI_fetched (v : Word) : (s.writeI v).fetched = s.fetched := rfl
@[simp] theorem writeI_signal (v : Word) : (s.writeI v).signal = s.signal := rfl
@[simp] theorem writeI_events (v : Word) : (s.writeI v).events = s.events := rfl
@[simp] theorem writeI_cfg (v : Word) : (s.writeI v).cfg = s.cfg := rfl
@[simp] theorem writeI_clock (v : Word) : (s.writeI v).clock = s.clock := rfl
@[simp] theorem writeI_port (v : Word) : (s.writeI v).port = s.port := rfl
@[simp] theorem writeI_script (v : Word) : (s.writeI v).script = s.script := rfl
@[simp] theorem writeI_drawn (v : Word) : (s.writeI v).drawn = s.drawn := rfl
@[simp] theorem writeI_readV (v : Word) (q : Reg) : (s.writeI v).readV q = s.readV q := rfl
@[simp] theorem writeI_regWritten (v : Word) (q : Reg) : (s.writeI v).regWritten q = s.regWritten q := rfl
@[simp] theorem writeI_byte (v : Word) (z : Nat) : (s.writeI v).byte z = s.byte z := rfl
@[simp] theorem writeI_byteWritten (v : Word) (z : Nat) : (s.writeI v).byteWritten z = s.byteWritten z := rfl

@[simp] theorem jumpTo_mem (v : Word) : (s.jumpTo v).mem = s.mem := rfl
@[simp] theorem jumpTo_V (v : Word) : (s.jumpTo v).V = s.V := rfl
@[simp] theorem jumpTo_I (v : Word) : (s.jumpTo v).I = s.I := rfl
@[simp] theorem jumpTo_pc (v : Word) : (s.jumpTo v).pc = v := rfl
@[simp] theorem jumpTo_sp (v : Word) : (s.jumpTo v).sp = s.sp := rfl
@[simp] theorem jumpTo_stack (v : Word) : (s.jumpTo v).stack = s.stack := rfl
@[simp] theorem jumpTo_DT (v : Word) : (s.jumpTo v).DT = s.DT := rfl
@[simp] theorem jumpTo_ST (v : Word) : (s.jumpTo v).ST = s.ST := rfl
@[simp] theorem jumpTo_anchorDT (v : Word) : (s.jumpTo v).anchorDT = s.anchorDT := rfl
@[simp] theorem jumpTo_anchorST (v : Word) : (s.jumpTo v).anchorST = s.anchorST := rfl
@[simp] theorem jumpTo_toneOn (v : Word) : (s.jumpTo v).toneOn = s.toneOn := rfl
@[simp] theorem jumpTo_mode (v : Word) : (s.jumpTo v).mode = s.mode := rfl
@[simp] theorem jumpTo_fb (v : Word) : (s.jumpTo v).fb = s.fb := rfl
@[simp] theorem jumpTo_written (v : Word) : (s.jumpTo v).written = s.written := rfl
@[simp] theorem jumpTo_fetched (v : Word) : (s.jumpTo v).fetched = s.fetched := rfl
@[simp] theorem jumpTo_signal (v : Word) : (s.jumpTo v).signal = s.signal := rfl
@[simp] theorem jumpTo_events (v : Word) : (s.jumpTo v).events = s.events := rfl
@[simp] theorem jumpTo_cfg (v : Word) : (s.jumpTo v).cfg = s.cfg := rfl
@[simp] theorem jumpTo_clock (v : Word) : (s.jumpTo v).clock = s.clock := rfl
@[simp] theorem jumpTo_port (v : Word) : (s.jumpTo v).port = s.port := rfl
@[simp] theorem jumpTo_script (v : Word) : (s.jumpTo v).script = s.script := rfl
@[simp] theorem jumpTo_drawn (v : Word) : (s.jumpTo v).drawn = s.drawn := rfl
@[simp] theorem jumpTo_readV (v : Word) (q : Reg) : (s.jumpTo v).readV q = s.readV q := rfl
@[simp] theorem jumpTo_regWritten (v : Word) (q : Reg) : (s.jumpTo v).regWritten q = s.regWritten q := rfl
@[simp] theorem jumpTo_byte (v : Word) (z : Nat) : (s.jumpTo v).byte z = s.byte z := rfl
@[simp] theorem jumpTo_byteWritten (v : Word) (z : Nat) : (s.jumpTo v).byteWritten z = s.byteWritten z := rfl

@[simp] theorem advance_mem : (s.advance).mem = s.mem := rfl
@[simp] theorem advance_V : (s.advance).V = s.V := rfl
@[simp] theorem advance_I : (s.advance).I = s.I := rfl
@[simp] theorem advance_pc : (s.advance).pc = s.pc + 2 := rfl
@[simp] theorem advance_sp : (s.advance).sp = s.sp := rfl
@[simp] theorem advance_stack : (s.advance).stack = s.stack := rfl
@[simp] theorem advance_DT : (s.advance).DT = s.DT := rfl
@[simp] theorem advance_ST : (s.advance).ST = s.ST := rfl
@[simp] theorem advance_anchorDT : (s.advance).anchorDT = s.anchorDT := rfl
@[simp] theorem advance_anchorST : (s.advance).anchorST = s.anchorST := rfl
@[simp] theorem advance_toneOn : (s.advance).toneOn = s.toneOn := rfl
@[simp] theorem advance_mode : (s.advance).mode = s.mode := rfl
@[simp] theorem advance_fb : (s.advance).fb = s.fb := rfl
@[simp] theorem advance_written : (s.advance).written = s.written := rfl
@[simp] theorem advance_fetched : (s.advance).fetched = s.fetched := rfl
@[simp] theorem advance_signal : (s.advance).signal = s.signal := rfl
@[simp] theorem advance_events : (s.advance).events = s.events := rfl
@[simp] theorem advance_cfg : (s.advance).cfg = s.cfg := rfl
@[simp] theorem advance_clock : (s.advance).clock = s.clock := rfl
@[simp] theorem advance_port : (s.advance).port = s.port := rfl
@[simp] theorem advance_script : (s.advance).script = s.script := rfl
@[simp] theorem advance_drawn : (s.advance).drawn = s.drawn := rfl
@[simp] theorem advance_readV (q : Reg) : (s.advance).readV q = s.readV q := rfl
@[simp] theorem advance_regWritten (q : Reg) : (s.advance).regWritten q = s.regWritten q := rfl
@[simp] theorem advance_byte (z : Nat) : (s.advance).byte z = s.byte z := rfl
@[simp] theorem advance_byteWritten (z : Nat) : (s.advance).byteWritten z = s.byteWritten z := rfl

@[simp] theorem push_mem (v : Word) : (s.push v).mem = s.mem := rfl
@[simp] theorem push_V (v : Word) : (s.push v).V = s.V := rfl
@[simp] theorem push_I (v : Word) : (s.push v).I = s.I := rfl
@[simp] theorem push_pc (v : Word) : (s.push v).pc = s.pc := rfl
@[simp] theorem push_sp (v : Word) : (s.push v).sp = s.sp + 1 := rfl
@[simp] theorem push_stack (v : Word) : (s.push v).stack = s.stack.set (s.sp + 1 : Fin 16).val v := rfl
@[simp] theorem push_DT (v : Word) : (s.push v).DT = s.DT := rfl
@[simp] theorem push_ST (v : Word) : (s.push v).ST = s.ST := rfl
@[simp] theorem push_anchorDT (v : Word) : (s.push v).anchorDT = s.anchorDT := rfl
@[simp] theorem push_anchorST (v : Word) : (s.push v).anchorST = s.anchorST := rfl
@[simp] theorem push_toneOn (v : Word) : (s.push v).toneOn = s.toneOn := rfl
@[simp] theorem push_mode (v : Word) : (s.push v).mode = s.mode := rfl
@[simp] theorem push_fb (v : Word) : (s.push v).fb = s.fb := rfl
@[simp] theorem push_written (v : Word) : (s.push v).written = s.written := rfl
@[simp] theorem push_fetched (v : Word) : (s.push v).fetched = s.fetched := rfl
@[simp] theorem push_signal (v : Word) : (s.push v).signal = s.signal := rfl
@[simp] theorem push_events (v : Word) : (s.push v).events = s.events := rfl
@[simp] theorem push_cfg (v : Word) : (s.push v).cfg = s.cfg := rfl
@[simp] theorem push_clock (v : Word) : (s.push v).clock = s.clock := rfl
@[simp] theorem push_port (v : Word) : (s.push v).port = s.port := rfl
@[simp] theorem push_script (v : Word) : (s.push v).script = s.script := rfl
@[simp] theorem push_drawn (v : Word) : (s.push v).drawn = s.drawn := rfl
@[simp] theorem push_readV (v : Word) (q : Reg) : (s.push v).readV q = s.readV q := rfl
@[simp] theorem push_regWritten (v : Word) (q : Reg) : (s.push v).regWritten q = s.regWritten q := rfl
@[simp] theorem push_byte (v : Word) (z : Nat) : (s.push v).byte z = s.byte z := rfl
@[simp] theorem push_byteWritten (v : Word) (z : Nat) : (s.push v).byteWritten z = s.byteWritten z := rfl

@[simp] theorem pop_mem : (s.pop).mem = s.mem := rfl
@[simp] theorem pop_V : (s.pop).V = s.V := rfl
@[simp] theorem pop_I : (s.pop).I = s.I := rfl
@[simp] theorem pop_pc : (s.pop).pc = s.pc := rfl
@[simp] theorem pop_sp : (s.pop).sp = s.sp - 1 := rfl
@[simp] theorem pop_stack : (s.pop).stack = s.stack := rfl
@[simp] theorem pop_DT : (s.pop).DT = s.DT := rfl
@[simp] theorem pop_ST : (s.pop).ST = s.ST := rfl
@[simp] theorem pop_anchorDT : (s.pop).anchorDT = s.anchorDT := rfl
@[simp] theorem pop_anchorST : (s.pop).anchorST = s.anchorST := rfl
@[simp] theorem pop_toneOn : (s.pop).toneOn = s.toneOn := rfl
@[simp] theorem pop_mode : (s.pop).mode = s.mode := rfl
@[simp] theorem pop_fb : (s.pop).fb = s.fb := rfl
@[simp] theorem pop_written : (s.pop).written = s.written := rfl
@[simp] theorem pop_fetched : (s.pop).fetched = s.fetched := rfl
@[simp] theorem pop_signal : (s.pop).signal = s.signal := rfl
@[simp] theorem pop_events : (s.pop).events = s.events := rfl
@[simp] theorem pop_cfg : (s.pop).cfg = s.cfg := rfl
@[simp] theorem pop_clock : (s.pop).clock = s.clock := rfl
@[simp] theorem pop_port : (s.pop).port = s.port := rfl
@[simp] theorem pop_script : (s.pop).script = s.script := rfl
@[simp] theorem pop_drawn : (s.pop).drawn = s.drawn := rfl
@[simp] theorem pop_readV (q : Reg) : (s.pop).readV q = s.readV q := rfl
@[simp] theorem pop_regWritten (q : Reg) : (s.pop).regWritten q = s.regWritten q := rfl
@[simp] theorem pop_byte (z : Nat) : (s.pop).byte z = s.byte z := rfl
@[simp] theorem pop_byteWritten (z : Nat) : (s.pop).byteWritten z = s.byteWritten z := rfl

@[simp] theorem emit_mem (e : Event) : (s.emit e).mem = s.mem := rfl
@[simp] theorem emit_V (e : Event) : (s.emit e).V = s.V := rfl
@[simp] theorem emit_I (e : Event) : (s.emit e).I = s.I := rfl
@[simp] theorem emit_pc (e : Event) : (s.emit e).pc = s.pc := rfl
@[simp] theorem emit_sp (e : Event) : (s.emit e).sp = s.sp := rfl
@[simp] theorem emit_stack (e : Event) : (s.emit e).stack = s.stack := rfl
@[simp] theorem emit_DT (e : Event) : (s.emit e).DT = s.DT := rfl
@[simp] theorem emit_ST (e : Event) : (s.emit e).ST = s.ST := rfl
@[simp] theorem emit_anchorDT (e : Event) : (s.emit e).anchorDT = s.anchorDT := rfl
@[simp] theorem emit_anchorST (e : Event) : (s.emit e).anchorST = s.anchorST := rfl
@[simp] theorem emit_toneOn (e : Event) : (s.emit e).toneOn = s.toneOn := rfl
@[simp] theorem emit_mode (e : Event) : (s.emit e).mode = s.mode := rfl
@[simp] theorem emit_fb (e : Event) : (s.emit e).fb = s.fb := rfl
@[simp] theorem emit_written (e : Event) : (s.emit e).written = s.written := rfl
@[simp] theorem emit_fetched (e : Event) : (s.emit e).fetched = s.fetched := rfl
@[simp] theorem emit_signal (e : Event) : (s.emit e).signal = s.signal := rfl
@[simp] theorem emit_events (e : Event) : (s.emit e).events = s.events ++ [e] := rfl
@[simp] theorem emit_cfg (e : Event) : (s.emit e).cfg = s.cfg := rfl
@[simp] theorem emit_clock (e : Event) : (s.emit e).clock = s.clock := rfl
@[simp] theorem emit_port (e : Event) : (s.emit e).port = s.port := rfl
@[simp] theorem emit_script (e : Event) : (s.emit e).script = s.script := rfl
@[simp] theorem emit_drawn (e : Event) : (s.emit e).drawn = s.drawn := rfl
@[simp] theorem emit_readV (e : Event) (q : Reg) : (s.emit e).readV q = s.readV q := rfl
@[simp] theorem emit_regWritten (e : Event) (q : Reg) : (s.emit e).regWritten q = s.regWritten q := rfl
@[simp] theorem emit_byte (e : Event) (z : Nat) : (s.emit e).byte z = s.byte z := rfl
@[simp] theorem emit_byteWritten (e : Event) (z : Nat) : (s.emit e).byteWritten z = s.byteWritten z := rfl

@[simp] theorem returning_mem (g : Signal) : (s.returning g).mem = s.mem := rfl
@[simp] theorem returning_V (g : Signal) : (s.returning g).V = s.V := rfl
@[simp] theorem returning_I (g : Signal) : (s.returning g).I = s.I := rfl
@[simp] theorem returning_pc (g : Signal) : (s.returning g).pc = s.pc := rfl
@[simp] theorem returning_sp (g : Signal) : (s.returning g).sp = s.sp := rfl
@[simp] theorem returning_stack (g : Signal) : (s.returning g).stack = s.stack := rfl
@[simp] theorem returning_DT (g : Signal) : (s.returning g).DT = s.DT := rfl
@[simp] theorem returning_ST (g : Signal) : (s.returning g).ST = s.ST := rfl
@[simp] theorem returning_anchorDT (g : Signal) : (s.returning g).anchorDT = s.anchorDT := rfl
@[simp] theorem returning_anchorST (g : Signal) : (s.returning g).anchorST = s.anchorST := rfl
@[simp] theorem returning_toneOn (g : Signal) : (s.returning g).toneOn = s.toneOn := rfl
@[simp] theorem returning_mode (g : Signal) : (s.returning g).mode = s.mode := rfl
@[simp] theorem returning_fb (g : Signal) : (s.returning g).fb = s.fb := rfl
@[simp] theorem returning_written (g : Signal) : (s.returning g).written = s.written := rfl
@[simp] theorem returning_fetched (g : Signal) : (s.returning g).fetched = s.fetched := rfl
@[simp] theorem returning_signal (g : Signal) : (s.returning g).signal = some g := rfl
@[simp] theorem returning_events (g : Signal) : (s.returning g).events = s.events := rfl
@[simp] theorem returning_cfg (g : Signal) : (s.returning g).cfg = s.cfg := rfl
@[simp] theorem returning_clock (g : Signal) : (s.returning g).clock = s.clock := rfl
@[simp] theorem returning_port (g : Signal) : (s.returning g).port = s.port := rfl
@[simp] theorem returning_script (g : Signal) : (s.returning g).script = s.script := rfl
@[simp] theorem returning_drawn (g : Signal) : (s.returning g).drawn = s.drawn := rfl
@[simp] theorem returning_readV (g : Signal) (q : Reg) : (s.returning g).readV q = s.readV q := rfl
@[simp] theorem returning_regWritten (g : Signal) (q : Reg) : (s.returning g).regWritten q = s.regWritten q := rfl
@[simp] theorem returning_byte (g : Signal) (z : Nat) : (s.returning g).byte z = s.byte z := rfl
@[simp] theorem returning_byteWritten (g : Signal) (z : Nat) : (s.returning g).byteWritten z = s.byteWritten z := rfl

@[simp] theorem continued_mem : (s.continued).mem = s.mem := rfl
@[simp] theorem continued_V : (s.continued).V = s.V := rfl
@[simp] theorem continued_I : (s.continued).I = s.I := rfl
@[simp] theorem continued_pc : (s.continued).pc = s.pc := rfl
@[simp] theorem continued_sp : (s.continued).sp = s.sp := rfl
@[simp] theorem continued_stack : (s.continued).stack = s.stack := rfl
@[simp] theorem continued_DT : (s.continued).DT = s.DT := rfl
@[simp] theorem continued_ST : (s.continued).ST = s.ST := rfl
@[simp] theorem continued_anchorDT : (s.continued).anchorDT = s.anchorDT := rfl
@[simp] theorem continued_anchorST : (s.continued).anchorST = s.anchorST := rfl
@[simp] theorem continued_toneOn : (s.continued).toneOn = s.toneOn := rfl
@[simp] theorem continued_mode : (s.continued).mode = s.mode := rfl
@[simp] theorem continued_fb : (s.continued).fb = s.fb := rfl
@[simp] theorem continued_written : (s.continued).written = s.written := rfl
@[simp] theorem continued_fetched : (s.continued).fetched = s.fetched := rfl
@[simp] theorem continued_signal : (s.continued).signal = some .cont := rfl
@[simp] theorem continued_events : (s.continued).events = s.events := rfl
@[simp] theorem continued_cfg : (s.continued).cfg = s.cfg := rfl
@[simp] theorem continued_clock : (s.continued).clock = s.clock := rfl
@[simp] theorem continued_port : (s.continued).port = s.port := rfl
@[simp] theorem continued_script : (s.continued).script = s.script := rfl
@[simp] theorem continued_drawn : (s.continued).drawn = s.drawn := rfl
@[simp] theorem continued_readV (q : Reg) : (s.continued).readV q = s.readV q := rfl
@[simp] theorem continued_regWritten (q : Reg) : (s.continued).regWritten q = s.regWritten q := rfl
@[simp] theorem continued_byte (z : Nat) : (s.continued).byte z = s.byte z := rfl
@[simp] theorem continued_byteWritten (z : Nat) : (s.continued).byteWritten z = s.byteWritten z := rfl

@[simp] theorem raiseAt_mem (c : ErrorCode) (a : Word) (w : Option Word) : (s.raiseAt c a w).mem = s.mem := rfl
@[simp] theorem raiseAt_V (c : ErrorCode) (a : Word) (w : Option Word) : (s.raiseAt c a w).V = s.V := rfl
@[simp] theorem raiseAt_I (c : ErrorCode) (a : Word) (w : Option Word) : (s.raiseAt c a w).I = s.I := rfl
@[simp] theorem raiseAt_pc (c : ErrorCode) (a : Word) (w : Option Word) : (s.raiseAt c a w).pc = s.pc := rfl
@[simp] theorem raiseAt_sp (c : ErrorCode) (a : Word) (w : Option Word) : (s.raiseAt c a w).sp = s.sp := rfl
@[simp] theorem raiseAt_stack (c : ErrorCode) (a : Word) (w : Option Word) : (s.raiseAt c a w).stack = s.stack := rfl
@[simp] theorem raiseAt_DT (c : ErrorCode) (a : Word) (w : Option Word) : (s.raiseAt c a w).DT = s.DT := rfl
@[simp] theorem raiseAt_ST (c : ErrorCode) (a : Word) (w : Option Word) : (s.raiseAt c a w).ST = s.ST := rfl
@[simp] theorem raiseAt_anchorDT (c : ErrorCode) (a : Word) (w : Option Word) : (s.raiseAt c a w).anchorDT = s.anchorDT := rfl
@[simp] theorem raiseAt_anchorST (c : ErrorCode) (a : Word) (w : Option Word) : (s.raiseAt c a w).anchorST = s.anchorST := rfl
@[simp] theorem raiseAt_toneOn (c : ErrorCode) (a : Word) (w : Option Word) : (s.raiseAt c a w).toneOn = s.toneOn := rfl
@[simp] theorem raiseAt_mode (c : ErrorCode) (a : Word) (w : Option Word) : (s.raiseAt c a w).mode = .faulted ⟨c, a, w⟩ := rfl
@[simp] theorem raiseAt_fb (c : ErrorCode) (a : Word) (w : Option Word) : (s.raiseAt c a w).fb = s.fb := rfl
@[simp] theorem raiseAt_written (c : ErrorCode) (a : Word) (w : Option Word) : (s.raiseAt c a w).written = s.written := rfl
@[simp] theorem raiseAt_fetched (c : ErrorCode) (a : Word) (w : Option Word) : (s.raiseAt c a w).fetched = s.fetched := rfl
@[simp] theorem raiseAt_signal (c : ErrorCode) (a : Word) (w : Option Word) : (s.raiseAt c a w).signal = s.signal := rfl
@[simp] theorem raiseAt_events (c : ErrorCode) (a : Word) (w : Option Word) : (s.raiseAt c a w).events = s.events ++ [.fault ⟨c, a, w⟩] := rfl
@[simp] theorem raiseAt_cfg (c : ErrorCode) (a : Word) (w : Option Word) : (s.raiseAt c a w).cfg = s.cfg := rfl
@[simp] theorem raiseAt_clock (c : ErrorCode) (a : Word) (w : Option Word) : (s.raiseAt c a w).clock = s.clock := rfl
@[simp] theorem raiseAt_port (c : ErrorCode) (a : Word) (w : Option Word) : (s.raiseAt c a w).port = s.port := rfl
@[simp] theorem raiseAt_script (c : ErrorCode) (a : Word) (w : Option Word) : (s.raiseAt c a w).script = s.script := rfl
@[simp] theorem raiseAt_drawn (c : ErrorCode) (a : Word) (w : Option Word) : (s.raiseAt c a w).drawn = s.drawn := rfl
@[simp] theorem raiseAt_readV (c : ErrorCode) (a : Word) (w : Option Word) (q : Reg) : (s.raiseAt c a w).readV q = s.readV q := rfl
@[simp] theorem raiseAt_regWritten (c : ErrorCode) (a : Word) (w : Option Word) (q : Reg) : (s.raiseAt c a w).regWritten q = s.regWritten q := rfl
@[simp] theorem raiseAt_byte (c : ErrorCode) (a : Word) (w : Option Word) (z : Nat) : (s.raiseAt c a w).byte z = s.byte z := rfl
@[simp] theorem raiseAt_byteWritten (c : ErrorCode) (a : Word) (w : Option Word) (z : Nat) : (s.raiseAt c a w).byteWritten z = s.byteWritten z := rfl

@[simp] theorem raise_mem (c : ErrorCode) : (s.raise c).mem = s.mem := rfl
@[simp] theorem raise_V (c : ErrorCode) : (s.raise c).V = s.V := rfl
@[simp] theorem raise_I (c : ErrorCode) : (s.raise c).I = s.I := rfl
@[simp] theorem raise_pc (c : ErrorCode) : (s.raise c).pc = s.pc := rfl
@[simp] theorem raise_sp (c : ErrorCode) : (s.raise c).sp = s.sp := rfl
@[simp] theorem raise_stack (c : ErrorCode) : (s.raise c).stack = s.stack := rfl
@[simp] theorem raise_DT (c : ErrorCode) : (s.raise c).DT = s.DT := rfl
@[simp] theorem raise_ST (c : ErrorCode) : (s.raise c).ST = s.ST := rfl
@[simp] theorem raise_anchorDT (c : ErrorCode) : (s.raise c).anchorDT = s.anchorDT := rfl
@[simp] theorem raise_anchorST (c : ErrorCode) : (s.raise c).anchorST = s.anchorST := rfl
@[simp] theorem raise_toneOn (c : ErrorCode) : (s.raise c).toneOn = s.toneOn := rfl
@[simp] theorem raise_mode (c : ErrorCode) : (s.raise c).mode = .faulted ⟨c, s.instrAddr, s.fetched⟩ := rfl
@[simp] theorem raise_fb (c : ErrorCode) : (s.raise c).fb = s.fb := rfl
@[simp] theorem raise_written (c : ErrorCode) : (s.raise c).written = s.written := rfl
@[simp] theorem raise_fetched (c : ErrorCode) : (s.raise c).fetched = s.fetched := rfl
@[simp] theorem raise_signal (c : ErrorCode) : (s.raise c).signal = s.signal := rfl
@[simp] theorem raise_events (c : ErrorCode) : (s.raise c).events = s.events ++ [.fault ⟨c, s.instrAddr, s.fetched⟩] := rfl
@[simp] theorem raise_cfg (c : ErrorCode) : (s.raise c).cfg = s.cfg := rfl
@[simp] theorem raise_clock (c : ErrorCode) : (s.raise c).clock = s.clock := rfl
@[simp] theorem raise_port (c : ErrorCode) : (s.raise c).port = s.port := rfl
@[simp] theorem raise_script (c : ErrorCode) : (s.raise c).script = s.script := rfl
@[simp] theorem raise_drawn (c : ErrorCode) : (s.raise c).drawn = s.drawn := rfl
@[simp] theorem raise_readV (c : ErrorCode) (q : Reg) : (s.raise c).readV q = s.readV q := rfl
@[simp] theorem raise_regWritten (c : ErrorCode) (q : Reg) : (s.raise c).regWritten q = s.regWritten q := rfl
@[simp] theorem raise_byte (c : ErrorCode) (z : Nat) : (s.raise c).byte z = s.byte z := rfl
@[simp] theorem raise_byteWritten (c : ErrorCode) (z : Nat) : (s.raise c).byteWritten z = s.byteWritten z := rfl

@[simp] theorem stopTone_mem : (s.stopTone).mem = s.mem := rfl
@[simp] theorem stopTone_V : (s.stopTone).V = s.V := rfl
@[simp] theorem stopTone_I : (s.stopTone).I = s.I := rfl
@[simp] theorem stopTone_pc : (s.stopTone).pc = s.pc := rfl
@[simp] theorem stopTone_sp : (s.stopTone).sp = s.sp := rfl
@[simp] theorem stopTone_stack : (s.stopTone).stack = s.stack := rfl
@[simp] theorem stopTone_DT : (s.stopTone).DT = s.DT := rfl
@[simp] theorem stopTone_ST : (s.stopTone).ST = s.ST := rfl
@[simp] theorem stopTone_anchorDT : (s.stopTone).anchorDT = s.anchorDT := rfl
@[simp] theorem stopTone_anchorST : (s.stopTone).anchorST = s.anchorST := rfl
@[simp] theorem stopTone_toneOn : (s.stopTone).toneOn = false := rfl
@[simp] theorem stopTone_mode : (s.stopTone).mode = s.mode := rfl
@[simp] theorem stopTone_fb : (s.stopTone).fb = s.fb := rfl
@[simp] theorem stopTone_written : (s.stopTone).written = s.written := rfl
@[simp] theorem stopTone_fetched : (s.stopTone).fetched = s.fetched := rfl
@[simp] theorem stopTone_signal : (s.stopTone).signal = s.signal := rfl
@[simp] theorem stopTone_events : (s.stopTone).events = s.events ++ [.toneStop] := rfl
@[simp] theorem stopTone_cfg : (s.stopTone).cfg = s.cfg := rfl
@[simp] theorem stopTone_clock : (s.stopTone).clock = s.clock := rfl
@[simp] theorem stopTone_port : (s.stopTone).port = s.port := rfl
@[simp] theorem stopTone_script : (s.stopTone).script = s.script := rfl
@[simp] theorem stopTone_drawn : (s.stopTone).drawn = s.drawn := rfl
@[simp] theorem stopTone_readV (q : Reg) : (s.stopTone).readV q = s.readV q := rfl
@[simp] theorem stopTone_regWritten (q : Reg) : (s.stopTone).regWritten q = s.regWritten q := rfl
@[simp] theorem stopTone_byte (z : Nat) : (s.stopTone).byte z = s.byte z := rfl
@[simp] theorem stopTone_byteWritten (z : Nat) : (s.stopTone).byteWritten z = s.byteWritten z := rfl

@[simp] theorem startDelay_mem : (s.startDelay).mem = s.mem := rfl
@[simp] theorem startDelay_V : (s.startDelay).V = s.V := rfl
@[simp] theorem startDelay_I : (s.startDelay).I = s.I := rfl
@[simp] theorem startDelay_pc : (s.startDelay).pc = s.pc := rfl
@[simp] theorem startDelay_sp : (s.startDelay).sp = s.sp := rfl
@[simp] theorem startDelay_stack : (s.startDelay).stack = s.stack := rfl
@[simp] theorem startDelay_DT : (s.startDelay).DT = s.DT := rfl
@[simp] theorem startDelay_ST : (s.startDelay).ST = s.ST := rfl
@[simp] theorem startDelay_anchorDT : (s.startDelay).anchorDT = s.clock + s.port.startElapsed := rfl
@[simp] theorem startDelay_anchorST : (s.startDelay).anchorST = s.anchorST := rfl
@[simp] theorem startDelay_toneOn : (s.startDelay).toneOn = s.toneOn := rfl
@[simp] theorem startDelay_mode : (s.startDelay).mode = s.mode := rfl
@[simp] theorem startDelay_fb : (s.startDelay).fb = s.fb := rfl
@[simp] theorem startDelay_written : (s.startDelay).written = s.written := rfl
@[simp] theorem startDelay_fetched : (s.startDelay).fetched = s.fetched := rfl
@[simp] theorem startDelay_signal : (s.startDelay).signal = s.signal := rfl
@[simp] theorem startDelay_events : (s.startDelay).events = s.events := rfl
@[simp] theorem startDelay_cfg : (s.startDelay).cfg = s.cfg := rfl
@[simp] theorem startDelay_clock : (s.startDelay).clock = s.clock + s.port.startElapsed := rfl
@[simp] theorem startDelay_port : (s.startDelay).port = s.port := rfl
@[simp] theorem startDelay_script : (s.startDelay).script = s.script := rfl
@[simp] theorem startDelay_drawn : (s.startDelay).drawn = s.drawn := rfl
@[simp] theorem startDelay_readV (q : Reg) : (s.startDelay).readV q = s.readV q := rfl
@[simp] theorem startDelay_regWritten (q : Reg) : (s.startDelay).regWritten q = s.regWritten q := rfl
@[simp] theorem startDelay_byte (z : Nat) : (s.startDelay).byte z = s.byte z := rfl
@[simp] theorem startDelay_byteWritten (z : Nat) : (s.startDelay).byteWritten z = s.byteWritten z := rfl

@[simp] theorem startSound_mem : (s.startSound).mem = s.mem := rfl
@[simp] theorem startSound_V : (s.startSound).V = s.V := rfl
@[simp] theorem startSound_I : (s.startSound).I = s.I := rfl
@[simp] theorem startSound_pc : (s.startSound).pc = s.pc := rfl
@[simp] theorem startSound_sp : (s.startSound).sp = s.sp := rfl
@[simp] theorem startSound_stack : (s.startSound).stack = s.stack := rfl
@[simp] theorem startSound_DT : (s.startSound).DT = s.DT := rfl
@[simp] theorem startSound_ST : (s.startSound).ST = s.ST := rfl
@[simp] theorem startSound_anchorDT : (s.startSound).anchorDT = s.anchorDT := rfl
@[simp] theorem startSound_anchorST : (s.startSound).anchorST = s.clock + s.port.startElapsed := rfl
@[simp] theorem startSound_toneOn : (s.startSound).toneOn = true := rfl
@[simp] theorem startSound_mode : (s.startSound).mode = s.mode := rfl
@[simp] theorem startSound_fb : (s.startSound).fb = s.fb := rfl
@[simp] theorem startSound_written : (s.startSound).written = s.written := rfl
@[simp] theorem startSound_fetched : (s.startSound).fetched = s.fetched := rfl
@[simp] theorem startSound_signal : (s.startSound).signal = s.signal := rfl
@[simp] theorem startSound_events : (s.startSound).events = s.events ++ [.toneStart] := rfl
@[simp] theorem startSound_cfg : (s.startSound).cfg = s.cfg := rfl
@[simp] theorem startSound_clock : (s.startSound).clock = s.clock + s.port.startElapsed := rfl
@[simp] theorem startSound_port : (s.startSound).port = s.port := rfl
@[simp] theorem startSound_script : (s.startSound).script = s.script := rfl
@[simp] theorem startSound_drawn : (s.startSound).drawn = s.drawn := rfl
@[simp] theorem startSound_readV (q : Reg) : (s.startSound).readV q = s.readV q := rfl
@[simp] theorem startSound_regWritten (q : Reg) : (s.startSound).regWritten q = s.regWritten q := rfl
@[simp] theorem startSound_byte (z : Nat) : (s.startSound).byte z = s.byte z := rfl
@[simp] theorem startSound_byteWritten (z : Nat) : (s.startSound).byteWritten z = s.byteWritten z := rfl

@[simp] theorem beginStep_mem : (s.beginStep).mem = s.mem := rfl
@[simp] theorem beginStep_V : (s.beginStep).V = s.V := rfl
@[simp] theorem beginStep_I : (s.beginStep).I = s.I := rfl
@[simp] theorem beginStep_pc : (s.beginStep).pc = s.pc := rfl
@[simp] theorem beginStep_sp : (s.beginStep).sp = s.sp := rfl
@[simp] theorem beginStep_stack : (s.beginStep).stack = s.stack := rfl
@[simp] theorem beginStep_DT : (s.beginStep).DT = s.DT := rfl
@[simp] theorem beginStep_ST : (s.beginStep).ST = s.ST := rfl
@[simp] theorem beginStep_anchorDT : (s.beginStep).anchorDT = s.anchorDT := rfl
@[simp] theorem beginStep_anchorST : (s.beginStep).anchorST = s.anchorST := rfl
@[simp] theorem beginStep_toneOn : (s.beginStep).toneOn = s.toneOn := rfl
@[simp] theorem beginStep_mode : (s.beginStep).mode = s.mode := rfl
@[simp] theorem beginStep_fb : (s.beginStep).fb = s.fb := rfl
@[simp] theorem beginStep_written : (s.beginStep).written = s.written := rfl
@[simp] theorem beginStep_fetched : (s.beginStep).fetched = none := rfl
@[simp] theorem beginStep_signal : (s.beginStep).signal = none := rfl
@[simp] theorem beginStep_events : (s.beginStep).events = [] := rfl
@[simp] theorem beginStep_cfg : (s.beginStep).cfg = s.cfg := rfl
@[simp] theorem beginStep_clock : (s.beginStep).clock = s.clock := rfl
@[simp] theorem beginStep_port : (s.beginStep).port = s.port := rfl
@[simp] theorem beginStep_script : (s.beginStep).script = s.script := rfl
@[simp] theorem beginStep_drawn : (s.beginStep).drawn = s.drawn := rfl
@[simp] theorem beginStep_readV (q : Reg) : (s.beginStep).readV q = s.readV q := rfl
@[simp] theorem beginStep_regWritten (q : Reg) : (s.beginStep).regWritten q = s.regWritten q := rfl
@[simp] theorem beginStep_byte (z : Nat) : (s.beginStep).byte z = s.byte z := rfl
@[simp] theorem beginStep_byteWritten (z : Nat) : (s.beginStep).byteWritten z = s.byteWritten z := rfl

@[simp] theorem enterExecute_mem (w : Word) : (s.enterExecute w).mem = s.mem := rfl
@[simp] theorem enterExecute_V (w : Word) : (s.enterExecute w).V = s.V := rfl
@[simp] theorem enterExecute_I (w : Word) : (s.enterExecute w).I = s.I := rfl
@[simp] theorem enterExecute_pc (w : Word) : (s.enterExecute w).pc = s.pc + 2 := rfl
@[simp] theorem enterExecute_sp (w : Word) : (s.enterExecute w).sp = s.sp := rfl
@[simp] theorem enterExecute_stack (w : Word) : (s.enterExecute w).stack = s.stack := rfl
@[simp] theorem enterExecute_DT (w : Word) : (s.enterExecute w).DT = s.DT := rfl
@[simp] theorem enterExecute_ST (w : Word) : (s.enterExecute w).ST = s.ST := rfl
@[simp] theorem enterExecute_anchorDT (w : Word) : (s.enterExecute w).anchorDT = s.anchorDT := rfl
@[simp] theorem enterExecute_anchorST (w : Word) : (s.enterExecute w).anchorST = s.anchorST := rfl
@[simp] theorem enterExecute_toneOn (w : Word) : (s.enterExecute w).toneOn = s.toneOn := rfl
@[simp] theorem enterExecute_mode (w : Word) : (s.enterExecute w).mode = s.mode := rfl
@[simp] theorem enterExecute_fb (w : Word) : (s.enterExecute w).fb = s.fb := rfl
@[simp] theorem enterExecute_written (w : Word) : (s.enterExecute w).written = s.written := rfl
@[simp] theorem enterExecute_fetched (w : Word) : (s.enterExecute w).fetched = some w := rfl
@[simp] theorem enterExecute_signal (w : Word) : (s.enterExecute w).signal = s.signal := rfl
@[simp] theorem enterExecute_events (w : Word) : (s.enterExecute w).events = s.events := rfl
@[simp] theorem enterExecute_cfg (w : Word) : (s.enterExecute w).cfg = s.cfg := rfl
@[simp] theorem enterExecute_clock (w : Word) : (s.enterExecute w).clock = s.clock := rfl
@[simp] theorem enterExecute_port (w : Word) : (s.enterExecute w).port = s.port := rfl
@[simp] theorem enterExecute_script (w : Word) : (s.enterExecute w).script = s.script := rfl
@[simp] theorem enterExecute_drawn (w : Word) : (s.enterExecute w).drawn = s.drawn := rfl
@[simp] theorem enterExecute_readV (w : Word) (q : Reg) : (s.enterExecute w).readV q = s.readV q := rfl
@[simp] theorem enterExecute_regWritten (w : Word) (q : Reg) : (s.enterExecute w).regWritten q = s.regWritten q := rfl
@[simp] theorem enterExecute_byte (w : Word) (z : Nat) : (s.enterExecute w).byte z = s.byte z := rfl
@[simp] theorem enterExecute_byteWritten (w : Word) (z : Nat) : (s.enterExecute w).byteWritten z = s.byteWritten z := rfl

@[simp] theorem unrecognized_mem (w : Word) : (s.unrecognized w).mem = s.mem := rfl
@[simp] theorem unrecognized_V (w : Word) : (s.unrecognized w).V = s.V := rfl
@[simp] theorem unrecognized_I (w : Word) : (s.unrecognized w).I = s.I := rfl
@[simp] theorem unrecognized_pc (w : Word) : (s.unrecognized w).pc = s.pc := rfl
@[simp] theorem unrecognized_sp (w : Word) : (s.unrecognized w).sp = s.sp := rfl
@[simp] theorem unrecognized_stack (w : Word) : (s.unrecognized w).stack = s.stack := rfl
@[simp] theorem unrecognized_DT (w : Word) : (s.unrecognized w).DT = s.DT := rfl
@[simp] theorem unrecognized_ST (w : Word) : (s.unrecognized w).ST = s.ST := rfl
@[simp] theorem unrecognized_anchorDT (w : Word) : (s.unrecognized w).anchorDT = s.anchorDT := rfl
@[simp] theorem unrecognized_anchorST (w : Word) : (s.unrecognized w).anchorST = s.anchorST := rfl
@[simp] theorem unrecognized_toneOn (w : Word) : (s.unrecognized w).toneOn = s.toneOn := rfl
@[simp] theorem unrecognized_mode (w : Word) : (s.unrecognized w).mode = s.mode := rfl
@[simp] theorem unrecognized_fb (w : Word) : (s.unrecognized w).fb = s.fb := rfl
@[simp] theorem unrecognized_written (w : Word) : (s.unrecognized w).written = s.written := rfl
@[simp] theorem unrecognized_fetched (w : Word) : (s.unrecognized w).fetched = s.fetched := rfl
@[simp] theorem unrecognized_signal (w : Word) : (s.unrecognized w).signal = some .cont := rfl
@[simp] theorem unrecognized_events (w : Word) : (s.unrecognized w).events = s.events ++ [.diagnostic s.instrAddr w] := rfl
@[simp] theorem unrecognized_cfg (w : Word) : (s.unrecognized w).cfg = s.cfg := rfl
@[simp] theorem unrecognized_clock (w : Word) : (s.unrecognized w).clock = s.clock := rfl
@[simp] theorem unrecognized_port (w : Word) : (s.unrecognized w).port = s.port := rfl
@[simp] theorem unrecognized_script (w : Word) : (s.unrecognized w).script = s.script := rfl
@[simp] theorem unrecognized_drawn (w : Word) : (s.unrecognized w).drawn = s.drawn := rfl
@[simp] theorem unrecognized_readV (w : Word) (q : Reg) : (s.unrecognized w).readV q = s.readV q := rfl
@[simp] theorem unrecognized_regWritten (w : Word) (q : Reg) : (s.unrecognized w).regWritten q = s.regWritten q := rfl
@[simp] theorem unrecognized_byte (w : Word) (z : Nat) : (s.unrecognized w).byte z = s.byte z := rfl
@[simp] theorem unrecognized_byteWritten (w : Word) (z : Nat) : (s.unrecognized w).byteWritten z = s.byteWritten z := rfl

end Sys2Proof.Machine.State
end

