-- ==== Sys2Proof/Laws/Memory.lean ====
section
/-! SUPPORT. Memory: read after write, and that every memory operation keeps the canonical form. -/

namespace Sys2Proof.Machine

namespace Memory

variable {font : Font}

theorem read_insert_same (a : Nat) (b : Byte) (m : Memory) (h : ∀ c ∈ m, c.1 ≠ a) :
    read font (insert (a, b) m) a = b := by
  induction m with
  | nil => simp [insert, read]
  | cons d m ih =>
    rw [insert]
    split
    · simp [read]
    · simp [read, h d (by simp), ih (fun c hc => h c (by simp [hc]))]

theorem read_insert_other (c : Host.Cell) (m : Memory) (a : Nat) (h : c.1 ≠ a) :
    read font (insert c m) a = read font m a := by
  induction m with
  | nil => simp [insert, read, h]
  | cons d m ih =>
    rw [insert]
    split
    · simp [read, h]
    · simp [read, ih]

theorem read_filter_same (m : Memory) (a : Nat) :
    read font (m.filter (fun c => c.1 != a)) a = unlisted font a := by
  induction m with
  | nil => rfl
  | cons d m ih =>
    by_cases h : d.1 = a
    · simp [h, ih]
    · simp [h, read, ih]

theorem read_filter_other (m : Memory) (a a' : Nat) (h : a' ≠ a) :
    read font (m.filter (fun c => c.1 != a)) a' = read font m a' := by
  induction m with
  | nil => rfl
  | cons d m ih =>
    by_cases hd : d.1 = a
    · have : d.1 ≠ a' := fun e => h (e.symm.trans hd)
      simp [read, hd, ih, Ne.symm h]
    · simp [hd, read, ih]

/-- A read after a write to the same address gives the value written. -/
theorem read_write_same (m : Memory) (a : Nat) (b : Byte) : read font (write font m a b) a = b := by
  unfold write
  split
  · rw [read_filter_same]; simp_all
  · exact read_insert_same a b _ (by simp)

/-- A write leaves every other address alone. -/
theorem read_write_other (m : Memory) (a a' : Nat) (b : Byte) (h : a' ≠ a) :
    read font (write font m a b) a' = read font m a' := by
  unfold write
  split
  · exact read_filter_other m a a' h
  · rw [read_insert_other _ _ _ (Ne.symm h), read_filter_other m a a' h]

theorem mem_insert (c d : Host.Cell) (m : Memory) : d ∈ insert c m ↔ d = c ∨ d ∈ m := by
  induction m with
  | nil => simp [insert]
  | cons e m ih =>
    rw [insert]
    split
    · simp
    · simp [ih, or_left_comm]

theorem insert_rising (c : Host.Cell) (m : Memory) (hm : m.Pairwise (fun c d => c.1 < d.1))
    (h : ∀ d ∈ m, d.1 ≠ c.1) : (insert c m).Pairwise (fun c d => c.1 < d.1) := by
  induction m with
  | nil => simp [insert]
  | cons e m ih =>
    rw [List.pairwise_cons] at hm
    rw [insert]
    split
    · rename_i hlt
      refine List.pairwise_cons.2 ⟨fun d hd => ?_, List.pairwise_cons.2 hm⟩
      rcases List.mem_cons.1 hd with rfl | hd
      · exact hlt
      · exact lt_trans hlt (hm.1 d hd)
    · rename_i hge
      refine List.pairwise_cons.2 ⟨fun d hd => ?_, ih hm.2 fun d hd => h d (by simp [hd])⟩
      rcases (mem_insert c d m).1 hd with rfl | hd
      · exact lt_of_le_of_ne (not_lt.1 hge) (h e (by simp))
      · exact hm.1 d hd

/-- A write inside memory keeps the canonical form. -/
theorem write_wf (m : Memory) (a : Nat) (b : Byte) (ha : a < memSize) (h : wf font m) :
    wf font (write font m a b) := by
  obtain ⟨hr, hc⟩ := h
  have hr' := hr.filter (fun c => c.1 != a)
  have hc' : ∀ c ∈ m.filter (fun c => c.1 != a), c.1 < memSize ∧ c.2 ≠ unlisted font c.1 :=
    fun c hm => hc c (List.mem_filter.1 hm).1
  unfold write
  split
  · exact ⟨hr', hc'⟩
  · rename_i hb
    refine ⟨insert_rising _ _ hr' (by simp), fun c hm => ?_⟩
    rcases (mem_insert _ c _).1 hm with rfl | hm
    · exact ⟨ha, hb⟩
    · exact hc' c hm

end Memory

@[simp] theorem mem_addAddr (a b : Nat) (l : List Nat) : b ∈ addAddr a l ↔ b = a ∨ b ∈ l := by
  induction l with
  | nil => simp [addAddr]
  | cons c l ih =>
    rw [addAddr]
    split
    · simp
    · split
      · rename_i h; simp [h]
      · simp [ih, or_left_comm]

/-- Adding an address keeps the list rising. -/
theorem addAddr_rising (a : Nat) (l : List Nat) (h : l.Pairwise (· < ·)) :
    (addAddr a l).Pairwise (· < ·) := by
  induction l with
  | nil => simp [addAddr]
  | cons c l ih =>
    rw [List.pairwise_cons] at h
    rw [addAddr]
    split
    · rename_i hlt
      refine List.pairwise_cons.2 ⟨fun d hd => ?_, List.pairwise_cons.2 h⟩
      rcases List.mem_cons.1 hd with rfl | hd
      · exact hlt
      · exact lt_trans hlt (h.1 d hd)
    · split
      · exact List.pairwise_cons.2 h
      · refine List.pairwise_cons.2 ⟨fun d hd => ?_, ih h.2⟩
        rcases (mem_addAddr a d l).1 hd with rfl | hd
        · omega
        · exact h.1 d hd

namespace State

variable (s : State)

/-- A store changes memory and its written bits, and nothing else. -/
theorem storeByte_eq (a : Nat) (b : Byte) :
    ∃ m w, s.storeByte a b = { s with mem := m, written := { s.written with mem := w } } := by
  unfold storeByte
  split
  · exact ⟨_, _, rfl⟩
  · exact ⟨s.mem, s.written.mem, rfl⟩

/-- So does a run of stores (20_memory.md R54: "no access has a side effect other than the bytes it
moves"). -/
theorem storeBytes_eq (a : Nat) (bs : List Byte) :
    ∃ m w, s.storeBytes a bs = { s with mem := m, written := { s.written with mem := w } } := by
  induction bs generalizing s a with
  | nil => exact ⟨s.mem, s.written.mem, rfl⟩
  | cons b bs ih =>
    obtain ⟨m, w, h⟩ := s.storeByte_eq a b
    obtain ⟨m', w', h'⟩ := ih (s.storeByte a b) (a + 1)
    exact ⟨m', w', by rw [storeBytes, h', h]⟩

theorem byte_storeByte_same (a : Nat) (b : Byte) (h : a < memSize) : (s.storeByte a b).byte a = b := by
  simp only [storeByte, h, if_true, byte]
  exact Memory.read_write_same _ _ _

theorem byte_storeByte_other (a a' : Nat) (b : Byte) (h : a' ≠ a) :
    (s.storeByte a b).byte a' = s.byte a' := by
  unfold storeByte
  split
  · simp only [byte]; exact Memory.read_write_other _ _ _ _ h
  · rfl

theorem byteWritten_storeByte_same (a : Nat) (b : Byte) (h : a < memSize) :
    (s.storeByte a b).byteWritten a = true := by
  simp [storeByte, byteWritten, h]

theorem byteWritten_storeByte_other (a a' : Nat) (b : Byte) (h : a' ≠ a) :
    (s.storeByte a b).byteWritten a' = s.byteWritten a' := by
  unfold storeByte
  split
  · simp [byteWritten, h]
  · rfl

theorem storeByte_wf (a : Nat) (b : Byte) (h : Memory.wf s.cfg.font s.mem) :
    Memory.wf (s.storeByte a b).cfg.font (s.storeByte a b).mem := by
  unfold storeByte
  split
  · exact Memory.write_wf _ _ _ ‹_› h
  · exact h

/-- A run of stores keeps the canonical form. -/
theorem storeBytes_wf (a : Nat) (bs : List Byte) (h : Memory.wf s.cfg.font s.mem) :
    Memory.wf (s.storeBytes a bs).cfg.font (s.storeBytes a bs).mem := by
  induction bs generalizing s a with
  | nil => exact h
  | cons b bs ih => exact ih _ _ (s.storeByte_wf a b h)

/-- A run of stores leaves every byte outside it alone. -/
theorem byte_storeBytes_outside (a : Nat) (bs : List Byte) (a' : Nat)
    (h : a' < a ∨ a + bs.length ≤ a') : (s.storeBytes a bs).byte a' = s.byte a' := by
  induction bs generalizing s a with
  | nil => rfl
  | cons b bs ih =>
    rw [List.length_cons] at h
    rw [storeBytes, ih _ _ (by omega), byte_storeByte_other _ _ _ _ (by omega)]

theorem byteWritten_storeBytes_outside (a : Nat) (bs : List Byte) (a' : Nat)
    (h : a' < a ∨ a + bs.length ≤ a') : (s.storeBytes a bs).byteWritten a' = s.byteWritten a' := by
  induction bs generalizing s a with
  | nil => rfl
  | cons b bs ih =>
    rw [List.length_cons] at h
    rw [storeBytes, ih _ _ (by omega), byteWritten_storeByte_other _ _ _ _ (by omega)]

/-- A run of stores inside memory puts each byte at its place. -/
theorem byte_storeBytes_inside (a : Nat) (bs : List Byte) (i : Nat) (hi : i < bs.length)
    (h : a + bs.length ≤ memSize) : (s.storeBytes a bs).byte (a + i) = bs[i] := by
  induction bs generalizing s a i with
  | nil => simp at hi
  | cons b bs ih =>
    rw [List.length_cons] at h hi
    cases i with
    | zero =>
      rw [storeBytes, byte_storeBytes_outside _ _ _ _ (by omega)]
      exact byte_storeByte_same _ _ _ (by omega)
    | succ i =>
      rw [storeBytes, show a + (i + 1) = a + 1 + i by omega]
      exact ih _ _ _ (by omega) (by omega)

/-- … and every byte of it counts as written. -/
theorem byteWritten_storeBytes_inside (a : Nat) (bs : List Byte) (i : Nat) (hi : i < bs.length)
    (h : a + bs.length ≤ memSize) : (s.storeBytes a bs).byteWritten (a + i) = true := by
  induction bs generalizing s a i with
  | nil => simp at hi
  | cons b bs ih =>
    rw [List.length_cons] at h hi
    cases i with
    | zero =>
      rw [storeBytes, byteWritten_storeBytes_outside _ _ _ _ (by omega)]
      exact byteWritten_storeByte_same _ _ _ (by omega)
    | succ i =>
      rw [storeBytes, show a + (i + 1) = a + 1 + i by omega]
      exact ih _ _ _ (by omega) (by omega)

theorem loadBytes_length (a k : Nat) : (s.loadBytes a k).length = k := by simp [loadBytes]

theorem getElem_loadBytes (a k i : Nat) (h : i < (s.loadBytes a k).length) :
    (s.loadBytes a k)[i] = s.byte (a + i) := by simp [loadBytes]

end State

/-- Reset memory is in the canonical form. -/
theorem reset_mem_wf : Memory.wf State.reset.cfg.font State.reset.mem := by
  exact ⟨List.Pairwise.nil, by simp [State.reset, State.initial]⟩

end Sys2Proof.Machine
end

