-- ==== Sys2Proof/Laws/Ops.lean ====
section
/-! SUPPORT. What each shared operation over registers, operands, the stack and memory runs does, said once. -/

namespace Sys2Proof.Machine.State

variable (s : State)

/-! Registers -/

theorem readV_writeV (r r' : Reg) (b : Byte) :
    (s.writeV r b).readV r' = if r' = r then b else s.readV r' := by
  simp only [readV, writeV_V, Vector.getElem_set]
  have : r.toNat = r'.toNat ↔ r' = r := by rw [← BitVec.toNat_inj, eq_comm]
  simp [this]

@[simp] theorem readV_writeV_same (r : Reg) (b : Byte) : (s.writeV r b).readV r = b := by
  simp [readV_writeV]

theorem readV_writeV_other (r r' : Reg) (b : Byte) (h : r' ≠ r) :
    (s.writeV r b).readV r' = s.readV r' := by simp [readV_writeV, h]

theorem regWritten_writeV (r r' : Reg) (b : Byte) :
    (s.writeV r b).regWritten r' = (decide (r' = r) || s.regWritten r') := by
  simp only [regWritten, writeV_written, Vector.getElem_set]
  have : r.toNat = r'.toNat ↔ r' = r := by rw [← BitVec.toNat_inj, eq_comm]
  by_cases h : r' = r <;> simp [this, h]

/-- A result and its flag (10_state.md R22): VF holds the flag, also when it is the destination. -/
theorem readV_writeFlagged (x r : Reg) (b f : Byte) :
    (s.writeFlagged x b f).readV r = if r = vf then f else if r = x then b else s.readV r := by
  simp [writeFlagged, readV_writeV]

theorem readV_loadV (a : Nat) (x r : Reg) :
    (s.loadV a x).readV r = if r.toNat ≤ x.toNat then s.byte (a + r.toNat) else s.readV r := by
  simp [readV, loadedV]

theorem regWritten_loadV (a : Nat) (x r : Reg) :
    (s.loadV a x).regWritten r = (decide (r.toNat ≤ x.toNat) || s.regWritten r) := by
  simp [regWritten, markedV]

/-! Reads after updates that do not concern them -/

theorem readV_congr {s t : State} (h : t.V = s.V) (r : Reg) : t.readV r = s.readV r := by
  simp [readV, h]

theorem regWritten_congr {s t : State} (h : t.written.V = s.written.V) (r : Reg) :
    t.regWritten r = s.regWritten r := by simp [regWritten, h]

theorem byte_congr {s t : State} (hm : t.mem = s.mem) (hc : t.cfg = s.cfg) (a : Nat) :
    t.byte a = s.byte a := by simp [byte, hm, hc]

theorem byteWritten_congr {s t : State} (h : t.written.mem = s.written.mem) (a : Nat) :
    t.byteWritten a = s.byteWritten a := by simp [byteWritten, h]

/-! Operands -/

/-- The model's check of an operand read is the condition of 10_state.md R39. -/
theorem operandsReadable_iff (rs : List Reg) (readsI : Bool) :
    s.operandsReadable rs readsI = true ↔ s.CanRead rs readsI := by
  unfold operandsReadable CanRead
  cases s.cfg.unwrittenRead <;> cases readsI <;> simp

theorem bytesReadable_iff (a k : Nat) : s.bytesReadable a k = true ↔ s.CanReadBytes a k := by
  unfold bytesReadable CanReadBytes
  cases s.cfg.unwrittenRead with
  | zero => simp
  | fault =>
    simp only [List.all_eq_true, List.mem_range, reduceCtorEq, false_or]
    refine ⟨fun h b hb hk => ?_, fun h i hi => h _ (by omega) (by omega)⟩
    have := h (b - a) (by omega)
    rwa [show a + (b - a) = b by omega] at this

theorem runInRange_iff (k : Nat) : runInRange s.I.toNat k = true ↔ s.RunFits k := by
  simp only [runInRange, RunFits, Bool.or_eq_true, decide_eq_true_eq]
  omega

theorem withOperands_of_canRead {rs : List Reg} {readsI : Bool} (h : s.CanRead rs readsI)
    (effect : State) : s.withOperands rs readsI effect = effect := by
  simp [withOperands, (s.operandsReadable_iff rs readsI).2 h]

theorem withOperands_of_unwritten {rs : List Reg} {readsI : Bool} (h : ¬ s.CanRead rs readsI)
    (effect : State) : s.withOperands rs readsI effect = s.raise .unwrittenRead := by
  simp [withOperands, mt (s.operandsReadable_iff rs readsI).1 h]

theorem withRunAtI_of_fits {k : Nat} (h : s.RunFits k) (effect : State) :
    s.withRunAtI k effect = effect := by
  simp [withRunAtI, (s.runInRange_iff k).2 h]

theorem withRunAtI_of_not_fits {k : Nat} (h : ¬ s.RunFits k) (effect : State) :
    s.withRunAtI k effect = s.raise .addressOutOfRange := by
  simp [withRunAtI, mt (s.runInRange_iff k).1 h]

theorem withBytesAtI_of_canRead {k : Nat} (h : s.CanReadBytes s.I.toNat k) (effect : State) :
    s.withBytesAtI k effect = effect := by
  simp [withBytesAtI, (s.bytesReadable_iff _ k).2 h]

theorem withBytesAtI_of_unwritten {k : Nat} (h : ¬ s.CanReadBytes s.I.toNat k) (effect : State) :
    s.withBytesAtI k effect = s.raise .unwrittenRead := by
  simp [withBytesAtI, mt (s.bytesReadable_iff _ k).1 h]

/-- A draw may read its operands exactly if it has no rows, or V[x], V[y] and I may be read. -/
theorem canRead_drawReads (x y : Reg) (n : Nibble) :
    s.CanRead (drawReads x y n) (n ≠ 0) ↔ (n ≠ 0 → s.CanRead [x, y] true) := by
  unfold drawReads
  by_cases h : n = 0
  · simp [h, CanRead]
  · rw [if_neg h, decide_eq_true h]
    exact ⟨fun hc _ => hc, fun hc => hc h⟩

theorem regsUpTo_length (x : Reg) : (regsUpTo x).length = x.toNat + 1 := by simp [regsUpTo]

theorem getElem_regsUpTo (x : Reg) (i : Nat) (h : i < (regsUpTo x).length) :
    (regsUpTo x)[i] = BitVec.ofNat 4 i := by simp [regsUpTo]

/-! The stack -/

/-- A push below the limit: `sp` is one more, and `stack[sp]` holds the value (41_flow.md R131). -/
theorem top_push (v : Word) : (s.push v).top = v := by simp [top]

theorem sp_push (v : Word) (h : s.sp ≠ 15) : (s.push v).sp.val = s.sp.val + 1 := by
  have h' : s.sp.val ≠ 15 := fun e => h (Fin.ext e)
  have := s.sp.isLt
  simp only [push_sp, Fin.val_add]
  exact Nat.mod_eq_of_lt (by simp; omega)

/-- A pop after a push gives the old `sp` back. -/
theorem sp_pop_push (v : Word) : (s.push v).pop.sp = s.sp := by simp

/-! Framebuffer, timers and the step -/

/-- A draw changes pixels, the event list, and VF if `DRAW_SETS_VF` (44_display.md R202, R205). -/
theorem draw_eq (cx ry : Byte) (sprite : List Byte) :
    s.draw cx ry sprite =
      let d := drawRows cx.toNat ry.toNat sprite (s.fb, false)
      let drawn : State := if s.cfg.drawSetsVF then s.writeV vf (flagOf d.2) else s
      { drawn with fb := d.1, events := s.events ++ [.render d.1] } := by
  unfold draw
  dsimp only
  split <;> rfl

/-- The delay timer's update touches its counter, its anchor and the clock (45_timers_keys.md R231). -/
theorem updateDelay_eq :
    ∃ d a, s.updateDelay = { s with DT := d, anchorDT := a, clock := s.clock + s.port.delayElapsed } := by
  unfold updateDelay
  dsimp only
  split
  · exact ⟨_, _, rfl⟩
  · exact ⟨s.DT, s.anchorDT, rfl⟩

/-- The sound timer's update touches its counter, its anchor, the tone, the events and the clock. -/
theorem updateSound_eq :
    ∃ d a o e, s.updateSound =
      { s with ST := d, anchorST := a, toneOn := o, events := e
               clock := s.clock + s.port.soundElapsed } := by
  unfold updateSound
  dsimp only
  split
  · split
    · exact ⟨_, _, _, _, rfl⟩
    · exact ⟨_, _, s.toneOn, s.events, rfl⟩
  · exact ⟨s.ST, s.anchorST, s.toneOn, s.events, rfl⟩

/-- The timer update touches the timers, the tone, the events and the clock. -/
theorem timerUpdate_eq :
    ∃ d a d' a' o e, s.timerUpdate =
      { s with DT := d, anchorDT := a, ST := d', anchorST := a', toneOn := o, events := e
               clock := s.clock + s.port.delayElapsed + s.port.soundElapsed } := by
  obtain ⟨d, a, h⟩ := s.updateDelay_eq
  obtain ⟨d', a', o, e, h'⟩ := s.updateDelay.updateSound_eq
  rw [h] at h'
  exact ⟨d, a, d', a', o, e, by rw [timerUpdate, h, h']⟩

/-- The end of a step touches the fetched word, the signal and the host's answers only. -/
theorem endStep_eq :
    ∃ p r n, s.endStep = { s with fetched := none, signal := none, port := p, script := r, drawn := n } := by
  unfold endStep nextAnswers
  dsimp only
  split
  · exact ⟨_, _, s.drawn, rfl⟩
  · exact ⟨_, s.script, _, rfl⟩

end Sys2Proof.Machine.State

namespace Sys2Proof.Machine

/-- A counter never grows, and it is clamped at 0 (45_timers_keys.md R231). -/
theorem decayed_toNat (c : Byte) (k : Nat) : (decayed c k).toNat = c.toNat - k := by
  have := c.isLt
  rw [decayed, BitVec.toNat_ofNat, Nat.mod_eq_of_lt (by omega)]
  omega

/-- What a next state after `afterNext f` comes from. -/
theorem afterNext_next {f : State → State} {o : Result} {t : State} (h : afterNext f o = .next t) :
    ∃ s, o = .next s ∧ t = f s := by
  cases o with
  | next s => exact ⟨s, rfl, by simpa [afterNext] using h.symm⟩
  | fault r => simp [afterNext] at h
  | refused r => simp [afterNext] at h

end Sys2Proof.Machine
end

