-- ==== Sys2Proof/Laws/Frame.lean ====
section
/-! SUPPORT. The frame of each shared operation, and how frames compose. -/

namespace Sys2Proof.Machine

/-- A frame may be widened. -/
theorem Frame.mono {s t : State} {vs vs' : List Reg} {lo len lo' len' : Nat} {ps ps' : List Part}
    (h : Frame s t vs lo len ps) (hv : ∀ r ∈ vs, r ∈ vs')
    (hm : len = 0 ∨ (lo' ≤ lo ∧ lo + len ≤ lo' + len')) (hp : ∀ p ∈ ps, p ∈ ps') :
    Frame s t vs' lo' len' ps' where
  V r hr := h.V r (mt (hv r) hr)
  mem a ha := h.mem a (by omega)
  cfg := h.cfg
  I hi := h.I (mt (hp _) hi)
  pc hi := h.pc (mt (hp _) hi)
  sp hi := h.sp (mt (hp _) hi)
  stack hi := h.stack (mt (hp _) hi)
  DT hi := h.DT (mt (hp _) hi)
  ST hi := h.ST (mt (hp _) hi)
  anchorDT hi := h.anchorDT (mt (hp _) hi)
  anchorST hi := h.anchorST (mt (hp _) hi)
  toneOn hi := h.toneOn (mt (hp _) hi)
  mode hi := h.mode (mt (hp _) hi)
  fb hi := h.fb (mt (hp _) hi)
  fetched hi := h.fetched (mt (hp _) hi)
  signal hi := h.signal (mt (hp _) hi)
  events hi := h.events (mt (hp _) hi)
  clock hi := h.clock (mt (hp _) hi)
  host hi := h.host (mt (hp _) hi)

/-- Two changes one after the other stay in a frame that holds both. -/
theorem Frame.trans {s t u : State} {vs : List Reg} {lo len : Nat} {ps : List Part}
    (h : Frame s t vs lo len ps) (h' : Frame t u vs lo len ps) : Frame s u vs lo len ps where
  V r hr := ⟨(h'.V r hr).1.trans (h.V r hr).1, (h'.V r hr).2.trans (h.V r hr).2⟩
  mem a ha := ⟨(h'.mem a ha).1.trans (h.mem a ha).1, (h'.mem a ha).2.trans (h.mem a ha).2⟩
  cfg := h'.cfg.trans h.cfg
  I hi := ⟨(h'.I hi).1.trans (h.I hi).1, (h'.I hi).2.trans (h.I hi).2⟩
  pc hi := (h'.pc hi).trans (h.pc hi)
  sp hi := (h'.sp hi).trans (h.sp hi)
  stack hi := (h'.stack hi).trans (h.stack hi)
  DT hi := (h'.DT hi).trans (h.DT hi)
  ST hi := (h'.ST hi).trans (h.ST hi)
  anchorDT hi := (h'.anchorDT hi).trans (h.anchorDT hi)
  anchorST hi := (h'.anchorST hi).trans (h.anchorST hi)
  toneOn hi := (h'.toneOn hi).trans (h.toneOn hi)
  mode hi := (h'.mode hi).trans (h.mode hi)
  fb hi := (h'.fb hi).trans (h.fb hi)
  fetched hi := (h'.fetched hi).trans (h.fetched hi)
  signal hi := (h'.signal hi).trans (h.signal hi)
  events hi := (h'.events hi).trans (h.events hi)
  clock hi := (h'.clock hi).trans (h.clock hi)
  host hi := ⟨(h'.host hi).1.trans (h.host hi).1, (h'.host hi).2.1.trans (h.host hi).2.1,
    (h'.host hi).2.2.trans (h.host hi).2.2⟩

variable (s : State)

theorem frame_refl (vs : List Reg) (lo len : Nat) (ps : List Part) : Frame s s vs lo len ps := by
  constructor <;> simp

theorem frame_writeV (r : Reg) (b : Byte) : Frame s (s.writeV r b) [r] 0 0 [] := by
  constructor
  case V =>
    intro q hq
    have hq : q ≠ r := by simpa using hq
    simp [State.readV_writeV, State.regWritten_writeV, hq]
  all_goals simp

theorem frame_loadV (a : Nat) (x : Reg) : Frame s (s.loadV a x) (regsUpTo x) 0 0 [] := by
  constructor
  case V =>
    intro q hq
    have hq : ¬ q.toNat ≤ x.toNat := by
      intro h
      refine hq (List.mem_map.2 ⟨q.toNat, List.mem_range.2 (by omega), by simp⟩)
    simp [State.readV_loadV, State.regWritten_loadV, hq]
  all_goals simp

theorem frame_writeI (v : Word) : Frame s (s.writeI v) [] 0 0 [.I] := by constructor <;> simp

theorem frame_jumpTo (v : Word) : Frame s (s.jumpTo v) [] 0 0 [.pc] := by constructor <;> simp

theorem frame_advance : Frame s s.advance [] 0 0 [.pc] := frame_jumpTo s _

theorem frame_push (v : Word) : Frame s (s.push v) [] 0 0 [.sp, .stack] := by constructor <;> simp

theorem frame_pop : Frame s s.pop [] 0 0 [.sp] := by constructor <;> simp

theorem frame_emit (e : Event) : Frame s (s.emit e) [] 0 0 [.events] := by constructor <;> simp

theorem frame_returning (g : Signal) : Frame s (s.returning g) [] 0 0 [.signal] := by
  constructor <;> simp

theorem frame_continued : Frame s s.continued [] 0 0 [.signal] := frame_returning s _

theorem frame_raise (c : ErrorCode) : Frame s (s.raise c) [] 0 0 [.mode, .events] := by
  constructor <;> simp

theorem frame_storeBytes (a : Nat) (bs : List Byte) :
    Frame s (s.storeBytes a bs) [] a bs.length [] := by
  obtain ⟨m, w, h⟩ := s.storeBytes_eq a bs
  constructor
  case V => intro r _; rw [h]; exact ⟨rfl, rfl⟩
  case mem =>
    exact fun b hb => ⟨s.byte_storeBytes_outside a bs b hb, s.byteWritten_storeBytes_outside a bs b hb⟩
  all_goals simp [h]

theorem frame_timerUpdate : Frame s s.timerUpdate [] 0 0 (.events :: timerParts) := by
  obtain ⟨d, a, d', a', o, e, h⟩ := s.timerUpdate_eq
  rw [h]
  constructor
  case V => intro r _; exact ⟨rfl, rfl⟩
  case mem => intro a _; exact ⟨rfl, rfl⟩
  all_goals simp [timerParts]

theorem frame_beginStep : Frame s s.beginStep [] 0 0 stepParts := by
  constructor <;> simp [stepParts]

theorem frame_endStep : Frame s s.endStep [] 0 0 stepParts := by
  obtain ⟨p, r, n, h⟩ := s.endStep_eq
  rw [h]
  constructor
  case V => intro r _; exact ⟨rfl, rfl⟩
  case mem => intro a _; exact ⟨rfl, rfl⟩
  all_goals simp [stepParts]

end Sys2Proof.Machine
end

