-- ==== Sys2Proof/Laws/PerInstr.lean ====
section
/-! SUPPORT. Families of statements made for each instruction. `EncodesRow`: the word of an instruction matches its row of spec/opcode_table.json, under the row's mask (30_encoding.md R73). -/

namespace Sys2Proof.Laws.EncodesRow

/-- The `mask` of an instruction's row of spec/opcode_table.json. -/
def rowMask : Instr → Word
  | .cls => 0xFFFF#16
  | .ret => 0xFFFF#16
  | .jp _ => 0xF000#16
  | .call _ => 0xF000#16
  | .seImm _ _ => 0xF000#16
  | .sneImm _ _ => 0xF000#16
  | .seReg _ _ => 0xF000#16
  | .ldImm _ _ => 0xF000#16
  | .addImm _ _ => 0xF000#16
  | .ldReg _ _ => 0xF00F#16
  | .orReg _ _ => 0xF00F#16
  | .andReg _ _ => 0xF00F#16
  | .xorReg _ _ => 0xF00F#16
  | .addReg _ _ => 0xF00F#16
  | .subReg _ _ => 0xF00F#16
  | .shr _ _ => 0xF00F#16
  | .subn _ _ => 0xF00F#16
  | .shl _ _ => 0xF00F#16
  | .sneReg _ _ => 0xF000#16
  | .ldI _ => 0xF000#16
  | .jpV0 _ => 0xF000#16
  | .rnd _ _ => 0xF000#16
  | .drw _ _ _ => 0xF000#16
  | .skp _ => 0xF0FF#16
  | .sknp _ => 0xF0FF#16
  | .ldVxDT _ => 0xF0FF#16
  | .ldVxK _ => 0xF0FF#16
  | .ldDTVx _ => 0xF0FF#16
  | .ldSTVx _ => 0xF0FF#16
  | .addI _ => 0xF0FF#16
  | .ldF _ => 0xF0FF#16
  | .ldB _ => 0xF0FF#16
  | .storeRegs _ => 0xF0FF#16
  | .loadRegs _ => 0xF0FF#16

/-- The `match` of an instruction's row. -/
def rowMatch : Instr → Word
  | .cls => 0x00E0#16
  | .ret => 0x00EE#16
  | .jp _ => 0x1000#16
  | .call _ => 0x2000#16
  | .seImm _ _ => 0x3000#16
  | .sneImm _ _ => 0x4000#16
  | .seReg _ _ => 0x5000#16
  | .ldImm _ _ => 0x6000#16
  | .addImm _ _ => 0x7000#16
  | .ldReg _ _ => 0x8000#16
  | .orReg _ _ => 0x8001#16
  | .andReg _ _ => 0x8002#16
  | .xorReg _ _ => 0x8003#16
  | .addReg _ _ => 0x8004#16
  | .subReg _ _ => 0x8005#16
  | .shr _ _ => 0x8006#16
  | .subn _ _ => 0x8007#16
  | .shl _ _ => 0x800E#16
  | .sneReg _ _ => 0x9000#16
  | .ldI _ => 0xA000#16
  | .jpV0 _ => 0xB000#16
  | .rnd _ _ => 0xC000#16
  | .drw _ _ _ => 0xD000#16
  | .skp _ => 0xE09E#16
  | .sknp _ => 0xE0A1#16
  | .ldVxDT _ => 0xF007#16
  | .ldVxK _ => 0xF00A#16
  | .ldDTVx _ => 0xF015#16
  | .ldSTVx _ => 0xF018#16
  | .addI _ => 0xF01E#16
  | .ldF _ => 0xF029#16
  | .ldB _ => 0xF033#16
  | .storeRegs _ => 0xF055#16
  | .loadRegs _ => 0xF065#16

/-- The instruction's word, under its row's mask, is its row's match. -/
def Statement (i : Instr) : Prop := encode i &&& rowMask i = rowMatch i

/-- AND works on the parts of an append. -/
theorem and_parts {m n : Nat} (u v : BitVec m) (p q : BitVec n) :
    (u ++ p) &&& (v ++ q) = (u &&& v) ++ (p &&& q) := by
  ext i hi
  simp only [BitVec.getElem_and, BitVec.getElem_append]
  split <;> simp

theorem and_nibble (a : Nibble) : a &&& 0xF#4 = a := BitVec.and_allOnes

theorem and_byte (kk : Byte) : kk &&& 0xFF#8 = kk := BitVec.and_allOnes

theorem and_high (a : Nibble) (x : Reg) : (a ++ x) &&& 0xF0#8 = a ++ 0#4 :=
  (and_parts a 0xF#4 x 0#4).trans (by rw [and_nibble, BitVec.and_zero])

theorem and_high' (a : Nibble) (x y : Reg) : (a ++ x ++ y) &&& 0xF00#12 = a ++ 0#4 ++ 0#4 :=
  (and_parts (a ++ x) 0xF0#8 y 0#4).trans (by rw [BitVec.and_zero, and_high])

theorem mask_nnn (a : Nibble) (nnn : Addr12) : wordNNN a nnn &&& 0xF000#16 = wordNNN a 0#12 := by
  refine (and_parts a 0xF#4 nnn 0#12).trans ?_
  rw [and_nibble, BitVec.and_zero]; rfl

theorem mask_x (a : Nibble) (x : Reg) (kk : Byte) :
    wordXKK a x kk &&& 0xF0FF#16 = wordXKK a 0#4 kk :=
  (and_parts (a ++ x) 0xF0#8 kk 0xFF#8).trans (by rw [and_byte, and_high]; rfl)

theorem mask_xkk (a : Nibble) (x : Reg) (kk : Byte) :
    wordXKK a x kk &&& 0xF000#16 = wordXKK a 0#4 0#8 :=
  (and_parts (a ++ x) 0xF0#8 kk 0#8).trans (by rw [BitVec.and_zero, and_high]; rfl)

theorem mask_xy (a : Nibble) (x y : Reg) (n : Nibble) :
    wordXYN a x y n &&& 0xF00F#16 = wordXYN a 0#4 0#4 n :=
  (and_parts (a ++ x ++ y) 0xF00#12 n 0xF#4).trans (by rw [and_nibble, and_high']; rfl)

theorem mask_xyn (a : Nibble) (x y : Reg) (n : Nibble) :
    wordXYN a x y n &&& 0xF000#16 = wordXYN a 0#4 0#4 0#4 :=
  (and_parts (a ++ x ++ y) 0xF00#12 n 0#4).trans (by rw [BitVec.and_zero, and_high']; rfl)


theorem cls : Statement (.cls) := by unfold Statement; decide
theorem ret : Statement (.ret) := by unfold Statement; decide
theorem jp (nnn : Addr12) : Statement (.jp nnn) := (mask_nnn 0x1#4 nnn).trans rfl
theorem call (nnn : Addr12) : Statement (.call nnn) := (mask_nnn 0x2#4 nnn).trans rfl
theorem seImm (x : Reg) (kk : Byte) : Statement (.seImm x kk) := (mask_xkk 0x3#4 x kk).trans rfl
theorem sneImm (x : Reg) (kk : Byte) : Statement (.sneImm x kk) := (mask_xkk 0x4#4 x kk).trans rfl
theorem seReg (x : Reg) (y : Reg) : Statement (.seReg x y) := (mask_xyn 0x5#4 x y 0x0#4).trans rfl
theorem ldImm (x : Reg) (kk : Byte) : Statement (.ldImm x kk) := (mask_xkk 0x6#4 x kk).trans rfl
theorem addImm (x : Reg) (kk : Byte) : Statement (.addImm x kk) := (mask_xkk 0x7#4 x kk).trans rfl
theorem ldReg (x : Reg) (y : Reg) : Statement (.ldReg x y) := (mask_xy 0x8#4 x y 0x0#4).trans rfl
theorem orReg (x : Reg) (y : Reg) : Statement (.orReg x y) := (mask_xy 0x8#4 x y 0x1#4).trans rfl
theorem andReg (x : Reg) (y : Reg) : Statement (.andReg x y) := (mask_xy 0x8#4 x y 0x2#4).trans rfl
theorem xorReg (x : Reg) (y : Reg) : Statement (.xorReg x y) := (mask_xy 0x8#4 x y 0x3#4).trans rfl
theorem addReg (x : Reg) (y : Reg) : Statement (.addReg x y) := (mask_xy 0x8#4 x y 0x4#4).trans rfl
theorem subReg (x : Reg) (y : Reg) : Statement (.subReg x y) := (mask_xy 0x8#4 x y 0x5#4).trans rfl
theorem shr (x : Reg) (y : Reg) : Statement (.shr x y) := (mask_xy 0x8#4 x y 0x6#4).trans rfl
theorem subn (x : Reg) (y : Reg) : Statement (.subn x y) := (mask_xy 0x8#4 x y 0x7#4).trans rfl
theorem shl (x : Reg) (y : Reg) : Statement (.shl x y) := (mask_xy 0x8#4 x y 0xe#4).trans rfl
theorem sneReg (x : Reg) (y : Reg) : Statement (.sneReg x y) := (mask_xyn 0x9#4 x y 0x0#4).trans rfl
theorem ldI (nnn : Addr12) : Statement (.ldI nnn) := (mask_nnn 0xa#4 nnn).trans rfl
theorem jpV0 (nnn : Addr12) : Statement (.jpV0 nnn) := (mask_nnn 0xb#4 nnn).trans rfl
theorem rnd (x : Reg) (kk : Byte) : Statement (.rnd x kk) := (mask_xkk 0xc#4 x kk).trans rfl
theorem drw (x : Reg) (y : Reg) (n : Nibble) : Statement (.drw x y n) := (mask_xyn 0xd#4 x y n).trans rfl
theorem skp (x : Reg) : Statement (.skp x) := (mask_x 0xe#4 x 0x9e#8).trans rfl
theorem sknp (x : Reg) : Statement (.sknp x) := (mask_x 0xe#4 x 0xa1#8).trans rfl
theorem ldVxDT (x : Reg) : Statement (.ldVxDT x) := (mask_x 0xf#4 x 0x7#8).trans rfl
theorem ldVxK (x : Reg) : Statement (.ldVxK x) := (mask_x 0xf#4 x 0xa#8).trans rfl
theorem ldDTVx (x : Reg) : Statement (.ldDTVx x) := (mask_x 0xf#4 x 0x15#8).trans rfl
theorem ldSTVx (x : Reg) : Statement (.ldSTVx x) := (mask_x 0xf#4 x 0x18#8).trans rfl
theorem addI (x : Reg) : Statement (.addI x) := (mask_x 0xf#4 x 0x1e#8).trans rfl
theorem ldF (x : Reg) : Statement (.ldF x) := (mask_x 0xf#4 x 0x29#8).trans rfl
theorem ldB (x : Reg) : Statement (.ldB x) := (mask_x 0xf#4 x 0x33#8).trans rfl
theorem storeRegs (x : Reg) : Statement (.storeRegs x) := (mask_x 0xf#4 x 0x55#8).trans rfl
theorem loadRegs (x : Reg) : Statement (.loadRegs x) := (mask_x 0xf#4 x 0x65#8).trans rfl

end Sys2Proof.Laws.EncodesRow
end

