-- ==== Sys2Proof/Machine/Inspect.lean ====
section
/-! DEFINITION. The inspect driver's views (40_cycle.md R115, 60_exceptions.md R263): they read the state and change nothing. -/

namespace Sys2Proof.Machine

/-- The full memory, address 0x000 first (R263). -/
def State.dumpMemory (s : State) : List Byte := s.loadBytes 0 memSize

/-- All registers, the address register, the timers, the program counter, the stack pointer and the stack
(R263). -/
def State.dumpRegisters (s : State) :
    List Byte × Word × (Byte × Byte) × Word × Fin 16 × List Word :=
  (s.V.toList, s.I, (s.DT, s.ST), s.pc, s.sp, s.stack.toList)

/-- The word at `pc`, "the instruction about to execute", without advancing it (R263). -/
def State.aboutToExecute (s : State) : Option Word :=
  if s.pc.toNat ≤ 0xFFE then some (wordOf (s.byte s.pc.toNat) (s.byte (s.pc.toNat + 1))) else none

end Sys2Proof.Machine
end

