-- ==== Sys2Proof/Tests/Slice0.lean ====
section
/-! SUPPORT. The model's own tests. Every expected result is the spec's: 95_test_vectors.md (S, F, A, M, G, T, Q are its vectors) or the words of 30_encoding.md. -/

namespace Sys2Proof.Tests

open Sys2Proof.Machine

/-! The static checks each refuse an ill-formed term. -/

theorem test_wf_register_16 : isReg 16 = false := by decide
theorem test_wf_immediate_256 : isImm 256 = false := by decide
theorem test_wf_address_1000 : isAddr 0x1000 = false := by decide
theorem test_wf_rows_16 : isRows 16 = false := by decide
theorem test_wf_tick_period_0 : { Config.default with tickPeriod := 0 }.wf = false := by decide
theorem test_wf_rom_E01 : romFits (List.replicate 0xE01 0) = false := by
  unfold romFits; rw [List.length_replicate]; decide
theorem test_wf_rom_E00 : romFits (List.replicate 0xE00 0) = true := by
  unfold romFits; rw [List.length_replicate]; decide
theorem test_wf_instr : (Instr.drw 0xF 0xF 0xF).wf = true := by decide

/-! Decoding: words written out from the patterns of 30_encoding.md R71, R73, for every constructor. -/

theorem test_decode_system :
    decodeTableWord 16 0b0000000011100000 = some .cls ∧
    decodeTableWord 16 0b0000000011101110 = some .ret := by decide

theorem test_decode_flow :
    decodeTableWord 16 0b0001101010111100 = some (.jp 0xABC) ∧
    decodeTableWord 16 0b0010001000010000 = some (.call 0x210) ∧
    decodeTableWord 16 0b1011111111111111 = some (.jpV0 0xFFF) := by decide

theorem test_decode_skips :
    decodeTableWord 16 0b0011001100000000 = some (.seImm 3 0x00) ∧
    decodeTableWord 16 0b0100000100000101 = some (.sneImm 1 0x05) ∧
    decodeTableWord 16 0b0101000100100001 = some (.seReg 1 2) ∧
    decodeTableWord 16 0b1001101010110111 = some (.sneReg 0xA 0xB) := by decide

theorem test_decode_immediates :
    decodeTableWord 16 0b0110101000000010 = some (.ldImm 0xA 0x02) ∧
    decodeTableWord 16 0b0111101011111111 = some (.addImm 0xA 0xFF) ∧
    decodeTableWord 16 0b1100001100001111 = some (.rnd 3 0x0F) ∧
    decodeTableWord 16 0b1010001100000000 = some (.ldI 0x300) := by decide

theorem test_decode_alu :
    decodeTableWord 16 0b1000101010110000 = some (.ldReg 0xA 0xB) ∧
    decodeTableWord 16 0b1000101010110001 = some (.orReg 0xA 0xB) ∧
    decodeTableWord 16 0b1000101010110010 = some (.andReg 0xA 0xB) ∧
    decodeTableWord 16 0b1000101010110011 = some (.xorReg 0xA 0xB) ∧
    decodeTableWord 16 0b1000101010110100 = some (.addReg 0xA 0xB) ∧
    decodeTableWord 16 0b1000101010110101 = some (.subReg 0xA 0xB) ∧
    decodeTableWord 16 0b1000101010110110 = some (.shr 0xA 0xB) ∧
    decodeTableWord 16 0b1000101010110111 = some (.subn 0xA 0xB) ∧
    decodeTableWord 16 0b1000101010111110 = some (.shl 0xA 0xB) := by decide

theorem test_decode_draw_keys :
    decodeTableWord 16 0b1101000000010101 = some (.drw 0 1 5) ∧
    decodeTableWord 16 0b1110000010011110 = some (.skp 0) ∧
    decodeTableWord 16 0b1110001010100001 = some (.sknp 2) := by decide

theorem test_decode_misc :
    decodeTableWord 16 0b1111001100000111 = some (.ldVxDT 3) ∧
    decodeTableWord 16 0b1111001100001010 = some (.ldVxK 3) ∧
    decodeTableWord 16 0b1111101000010101 = some (.ldDTVx 0xA) ∧
    decodeTableWord 16 0b1111000100011000 = some (.ldSTVx 1) ∧
    decodeTableWord 16 0b1111001000011110 = some (.addI 2) ∧
    decodeTableWord 16 0b1111000000101001 = some (.ldF 0) ∧
    decodeTableWord 16 0b1111010000110011 = some (.ldB 4) ∧
    decodeTableWord 16 0b1111001101010101 = some (.storeRegs 3) ∧
    decodeTableWord 16 0b1111011101100101 = some (.loadRegs 7) := by decide

/-- The unrecognized words of 95_test_vectors.md section 2.1. -/
theorem test_decode_unrecognized :
    [0x0000, 0x00E1, 0x0EE0, 0x0123, 0x8AB8, 0x8ABD, 0x8ABF, 0xE09F, 0xF000, 0xF0FF, 0xFFFF].all
      (fun w => decodeTableWord 16 w = none) = true := by decide

/-! Single steps. `base` is the reset state with the tick period 10, host time 0 and a quiet host (the
conventions of 95_test_vectors.md). -/

/-- The start state of the vectors: 10_state.md R37. -/
def base : State := State.initial { Config.default with tickPeriod := 10 } 0 HostInputs.quiet []

/-- `base` with some V registers set and `I` and `pc` given. -/
def start (vs : List (Reg × Byte)) (i pc : Word) : State :=
  { vs.foldl (fun s v => s.writeV v.1 v.2) base with I := i, pc := pc }

/-- Run the word `w` at `pc` and look at the next state; a stop fails every look. -/
def look (s : State) (w : Nat) (p : State → Bool) : Bool :=
  match step (s.withFetchWord 16 w) with
  | .next t => p t
  | _ => false

/-- F1, F2. -/
theorem test_jp : look (start [] 0 0x204) 0x1204 (fun t => t.pc = 0x204 ∧ t.mode = .halted) ∧
    look (start [] 0 0x204) 0x1200 (fun t => t.pc = 0x200 ∧ t.mode = .running) := by decide

/-- F5, F6. -/
theorem test_call : look (start [] 0 0x204) 0x2210
      (fun t => t.sp = 1 ∧ t.stack[1] = 0x206 ∧ t.pc = 0x210) ∧
    look { start [] 0 0x300 with sp := 15 } 0x2400 (fun t =>
      t.mode = .faulted ⟨.stackOverflow, 0x300, some 0x2400⟩ ∧ t.sp = 15 ∧ t.pc = 0x302 ∧
        t.events = [.fault ⟨.stackOverflow, 0x300, some 0x2400⟩]) := by decide

/-- F7, F8. -/
theorem test_ret : look (start [] 0 0x200) 0x00EE (fun t =>
      t.mode = .faulted ⟨.stackUnderflow, 0x200, some 0x00EE⟩ ∧ t.pc = 0x202) ∧
    look { start [] 0 0x400 with sp := 2, stack := base.stack.set 2 0x30A } 0x00EE
      (fun t => t.pc = 0x30A ∧ t.sp = 1 ∧ t.stack[2] = 0x30A) := by decide

/-- F9, F10. -/
theorem test_seImm : look (start [(3, 0x00)] 0 0x208) 0x3300 (fun t => t.pc = 0x20C) ∧
    look (start [(3, 0x01)] 0 0x208) 0x3300 (fun t => t.pc = 0x20A) := by decide

/-- F11. -/
theorem test_sneImm : look (start [(1, 0x05)] 0 0x200) 0x4105 (fun t => t.pc = 0x202) ∧
    look (start [(1, 0x05)] 0 0x200) 0x4106 (fun t => t.pc = 0x204) := by decide

/-- F13, and F15 with 5xy0. -/
theorem test_seReg : look (start [(1, 0x33), (2, 0x33)] 0 0x200) 0x5121 (fun t => t.pc = 0x204) ∧
    look (start [(0, 0x07), (1, 0x08)] 0 0x200) 0x5010 (fun t => t.pc = 0x202) := by decide

/-- F14, F15. -/
theorem test_sneReg : look (start [(2, 9)] 0 0x200) 0x9220 (fun t => t.pc = 0x202) ∧
    look (start [(0, 0x07), (1, 0x08)] 0 0x200) 0x9010 (fun t => t.pc = 0x204) := by decide

/-- F17, F18: not masked, and never a Halt. -/
theorem test_jpV0 : look (start [(0, 0xFF)] 0 0x200) 0xBFFF (fun t => t.pc = 0x10FE) ∧
    look (start [] 0 0x300) 0xB300 (fun t => t.pc = 0x300 ∧ t.mode = .running) := by decide

/-- A1. -/
theorem test_ldImm : look (start [] 0 0x200) 0x6F55 (fun t => t.readV 0xF = 0x55 ∧ t.pc = 0x202) := by
  decide

/-- S1 with x = A and x = F. -/
theorem test_addImm : look (start [(0xA, 0xFF), (0xF, 0x5A)] 0 0x200) 0x7A01
      (fun t => t.readV 0xA = 0x00 ∧ t.readV 0xF = 0x5A) ∧
    look (start [(0xF, 0xFF)] 0 0x200) 0x7F01 (fun t => t.readV 0xF = 0x00) := by decide

/-- A4, A5, A6. -/
theorem test_logic : look (start [(2, 0x5A)] 0 0x200) 0x8120 (fun t => t.readV 1 = 0x5A) ∧
    look (start [(1, 0xF0), (2, 0x0F), (0xF, 1)] 0 0x200) 0x8121
      (fun t => t.readV 1 = 0xFF ∧ t.readV 0xF = 1) ∧
    look (start [(1, 0xF0), (2, 0x3C)] 0 0x200) 0x8122 (fun t => t.readV 1 = 0x30) ∧
    look (start [(1, 0xF0), (2, 0x3C)] 0 0x200) 0x8123 (fun t => t.readV 1 = 0xCC) := by decide

/-- S2, A11. -/
theorem test_addReg : look (start [(1, 0xFF), (2, 0x01)] 0 0x200) 0x8124
      (fun t => t.readV 1 = 0x00 ∧ t.readV 0xF = 1) ∧
    look (start [(1, 0x01), (0xF, 0xFF)] 0 0x200) 0x8F14 (fun t => t.readV 0xF = 1) := by decide

/-- S4, A14. -/
theorem test_subReg : look (start [(1, 0x03), (2, 0x05)] 0 0x200) 0x8125
      (fun t => t.readV 1 = 0xFE ∧ t.readV 0xF = 0) ∧
    look (start [(1, 0x42), (2, 0x42)] 0 0x200) 0x8125
      (fun t => t.readV 1 = 0x00 ∧ t.readV 0xF = 0) := by decide

/-- A18, A21. -/
theorem test_shr : look (start [(1, 0xFF), (2, 0x00)] 0 0x200) 0x8126
      (fun t => t.readV 1 = 0x7F ∧ t.readV 0xF = 1 ∧ t.readV 2 = 0) ∧
    look (start [(0xF, 0x02)] 0 0x200) 0x8F06 (fun t => t.readV 0xF = 0) := by decide

/-- A22, A23. -/
theorem test_subn : look (start [(1, 0x03), (2, 0x05)] 0 0x200) 0x8127
      (fun t => t.readV 1 = 0x02 ∧ t.readV 0xF = 1 ∧ t.readV 2 = 0x05) ∧
    look (start [(1, 0x05), (2, 0x03)] 0 0x200) 0x8127
      (fun t => t.readV 1 = 0xFE ∧ t.readV 0xF = 0) := by decide

/-- A26, A27. -/
theorem test_shl : look (start [(1, 0xFF)] 0 0x200) 0x810E
      (fun t => t.readV 1 = 0xFE ∧ t.readV 0xF = 1) ∧
    look (start [(1, 0x7F)] 0 0x200) 0x810E (fun t => t.readV 1 = 0xFE ∧ t.readV 0xF = 0) := by decide

/-- A28, A30. -/
theorem test_rnd : look { base with port := { HostInputs.quiet with random := some 0xB7 } } 0xC30F
      (fun t => t.readV 3 = 0x07) ∧
    look { start [(3, 0x12)] 0 0x200 with port := { HostInputs.quiet with random := none } } 0xC3FF
      (fun t => t.mode = .faulted ⟨.rngFailure, 0x200, some 0xC3FF⟩ ∧ t.readV 3 = 0x12) := by decide

/-- A31. -/
theorem test_unrecognized : look (start [(1, 0x12), (0xF, 0x34)] 0 0x200) 0x8128 (fun t =>
    t.readV 1 = 0x12 ∧ t.readV 0xF = 0x34 ∧ t.pc = 0x202 ∧
      t.events = [.diagnostic 0x200 0x8128]) := by decide

/-- M1, M6. -/
theorem test_ldI_ldF : look base 0xAFFF (fun t => t.I = 0x0FFF) ∧
    look (start [(0, 0xFF)] 0 0x200) 0xF029 (fun t => t.I = 0x54B) := by decide

/-- M2, M4. -/
theorem test_addI : look (start [(2, 0x10), (0xF, 0x77)] 0x300 0x200) 0xF21E
      (fun t => t.I = 0x310 ∧ t.readV 0xF = 0x77) ∧
    look (start [(1, 0x02)] 0xFFE 0x200) 0xF11E
      (fun t => t.mode = .faulted ⟨.addressOutOfRange, 0x200, some 0xF11E⟩ ∧ t.I = 0xFFE) := by decide

/-- S6, M9. -/
theorem test_ldB : look (start [(4, 157)] 0x300 0x200) 0xF433 (fun t =>
      t.byte 0x300 = 1 ∧ t.byte 0x301 = 5 ∧ t.byte 0x302 = 7 ∧ t.I = 0x300) ∧
    look (start [] 0xFFE 0x200) 0xF033 (fun t =>
      t.mode = .faulted ⟨.addressOutOfRange, 0x200, some 0xF033⟩ ∧ t.byte 0xFFE = 0) := by decide

/-- M10, M11. -/
theorem test_storeRegs : look (start [(0, 0xAB), (1, 0xCD)] 0xFFF 0x200) 0xF055
      (fun t => t.byte 0xFFF = 0xAB) ∧
    look (start [(0, 0xAB)] 0xFFF 0x200) 0xF155 (fun t =>
      t.mode = .faulted ⟨.addressOutOfRange, 0x200, some 0xF155⟩ ∧ t.byte 0xFFF = 0) := by decide

/-- M15, M14. -/
theorem test_loadRegs : look ((start [(0, 0x11), (3, 0x99)] 0x500 0x200).storeBytes 0x500
      [0xAA, 0xBB, 0xCC, 0xDD]) 0xF265 (fun t =>
      t.readV 0 = 0xAA ∧ t.readV 1 = 0xBB ∧ t.readV 2 = 0xCC ∧ t.readV 3 = 0x99 ∧ t.I = 0x500) ∧
    look (start [(0, 0x11)] 0xFF8 0x200) 0xF865 (fun t =>
      t.mode = .faulted ⟨.addressOutOfRange, 0x200, some 0xF865⟩ ∧ t.readV 0 = 0x11) := by decide

/-- Exactly these (row, column) pixels are on. -/
def isOn (fb : Framebuffer) (ps : List (Nat × Nat)) : Bool :=
  (List.range 32).all fun r => (List.range 64).all fun c =>
    pixel fb (rowOf r) (colOf c) == ps.contains (r, c)

/-- G2: a glyph 0 that wraps at both edges. -/
theorem test_drw_wrap : look (start [(0, 0x3E), (1, 0x1E)] 0x050 0x200) 0xD015 (fun t =>
    isOn t.fb [(30, 62), (30, 63), (30, 0), (30, 1), (31, 62), (31, 1), (0, 62), (0, 1), (1, 62), (1, 1),
      (2, 62), (2, 63), (2, 0), (2, 1)] ∧ t.readV 0xF = 0 ∧ t.events = [.render t.fb]) := by decide

/-- G5 and G6 with one lit pixel under glyph 0: `DRAW_SETS_VF` true. G7 where nothing was written and
`UNWRITTEN_READ` is `fault` (D16). -/
theorem test_drw_collision :
    look { base with cfg := { base.cfg with drawSetsVF := true }, I := 0x50
                     fb := setPixel blankFb 0 3 true } 0xD015
      (fun t => pixel t.fb 0 3 = false ∧ t.readV 0xF = 1) ∧
    look { (start [(0xF, 0x55)] 0x50 0x200) with cfg := { base.cfg with drawSetsVF := true } } 0xD015
      (fun t => pixel t.fb 0 3 = true ∧ t.readV 0xF = 0) ∧
    look { start [] 0xFFF 0x200 with cfg := { base.cfg with unwrittenRead := .fault } } 0xD010
      (fun t => t.events = [.render blankFb] ∧ t.mode = .running) := by decide

/-- S5. -/
theorem test_cls : look { base with fb := setPixel blankFb 5 9 true } 0x00E0
    (fun t => t.fb = blankFb ∧ t.events = [.render blankFb]) := by decide

/-- T11, T1. -/
theorem test_delay_timer : look { base with DT := 0x2A } 0xF307 (fun t => t.readV 3 = 0x2A) ∧
    look { base with DT := 5, port := { HostInputs.quiet with startElapsed := 3 } } 0xF015
      (fun t => t.DT = 0 ∧ t.anchorDT = 0) := by decide

/-- T2, T3. -/
theorem test_sound_timer :
    look { start [(1, 3)] 0 0x200 with port := { HostInputs.quiet with startElapsed := 7 } } 0xF118
      (fun t => t.ST = 3 ∧ t.anchorST = 7 ∧ t.events = [.toneStart] ∧ t.toneOn = true) ∧
    look { base with ST := 5, toneOn := true } 0xF118
      (fun t => t.ST = 0 ∧ t.events = [.toneStop] ∧ t.toneOn = false) := by decide

/-- T6, T9 (P = 10). -/
theorem test_timer_update :
    look { base with DT := 5, port := { HostInputs.quiet with delayElapsed := 25 } } 0x6000
      (fun t => t.DT = 3 ∧ t.anchorDT = 25) ∧
    look { base with ST := 1, toneOn := true, port := { HostInputs.quiet with soundElapsed := 10 } } 0x6000
      (fun t => t.ST = 0 ∧ t.events = [.toneStop] ∧ t.toneOn = false) := by decide

/-- Key 5 is held. -/
def key5 : HostInputs := { HostInputs.quiet with pressed := (Vector.replicate 16 false).set 5 true }

/-- T12, T15. -/
theorem test_skp : look { start [(0, 5)] 0 0x210 with port := key5 } 0xE09E (fun t => t.pc = 0x214) ∧
    look { start [(0, 0x10)] 0 0x210 with port := key5 } 0xE09E (fun t => t.pc = 0x212) := by decide

/-- T14, T15. -/
theorem test_sknp : look (start [(0, 5)] 0 0x210) 0xE0A1 (fun t => t.pc = 0x214) ∧
    look { start [(0, 5)] 0 0x210 with port := key5 } 0xE0A1 (fun t => t.pc = 0x212) := by decide

/-- T16. -/
theorem test_ldVxK : look (start [(3, 9)] 0 0x220) 0xF30A
    (fun t => t.pc = 0x220 ∧ t.mode = .awaitingKey 3 ∧ t.readV 3 = 9) := by decide

/-- One step of a machine that waits for a key at 0x220. -/
def waitLook (port : HostInputs) (p : State → Bool) : Bool :=
  match step { start [] 0 0x220 with mode := .awaitingKey 3, DT := 9, port := port } with
  | .next t => p t
  | _ => false

/-- T18, T19: a quit request comes first. -/
theorem test_await : waitLook { HostInputs.quiet with keyDown := some 0xB, delayElapsed := 50 }
      (fun t => t.readV 3 = 0x0B ∧ t.pc = 0x222 ∧ t.mode = .running ∧ t.DT = 9) ∧
    waitLook { HostInputs.quiet with keyDown := some 0xB, quit := true }
      (fun t => t.readV 3 = 0 ∧ t.pc = 0x220 ∧ t.mode = .halted) := by decide

/-- Q2: no timer update in the step of a quit. -/
theorem test_quit : look { base with DT := 3, port := { HostInputs.quiet with quit := true, delayElapsed := 50 } }
    0x6001 (fun t => t.readV 0 = 1 ∧ t.mode = .halted ∧ t.DT = 3) := by decide

/-- The rest of F3: a fetch at 0xFFF. -/
theorem test_fetch_out_of_range :
    (match step { base with pc := 0xFFF } with
      | .next t => t.mode = .faulted ⟨.fetchOutOfRange, 0xFFF, none⟩ && t.pc = 0xFFF
      | _ => false) = true := by decide

/-- Mode Faulted has no step. -/
theorem test_faulted : (match step { base with mode := .faulted ⟨.fetchOutOfRange, 0xFFF, none⟩ } with
    | .fault r => r = .noStep ⟨.fetchOutOfRange, 0xFFF, none⟩
    | _ => false) = true := by decide

/-- Q5: V0 and V1 have never been written. -/
theorem test_unwritten :
    look { base with cfg := { base.cfg with unwrittenRead := .fault } } 0x8014
      (fun t => t.mode = .faulted ⟨.unwrittenRead, 0x200, some 0x8014⟩) := by decide

/-- Q10. -/
theorem test_construct :
    (match construct base.cfg 0 HostInputs.quiet [] (some (some [0x12, 0x00])) with
      | .ok t => t.pc = 0x200 ∧ t.byte 0x200 = 0x12 ∧ t.byte 0x201 = 0 ∧
          t.loadBytes 0x050 5 = [0xF0, 0x90, 0x90, 0x90, 0xF0] ∧
          t.loadBytes 0x09B 5 = [0xF0, 0x80, 0xF0, 0x80, 0x80]
      | .error _ => false) = true := by decide

/-- The first step after reset runs the placed word, whatever the host answers. -/
theorem test_reset_step : (match step (State.reset.withFetchWord 16 0x1204) with
    | .next _ => true
    | _ => false) = true := by decide

/-- R263: the word at `pc`. -/
theorem test_about_to_execute : (base.withFetchWord 16 0xA2F0).aboutToExecute = some 0xA2F0 := by decide

/-! Witnesses: for each statement with hypotheses, a concrete state and operands that meet all of them
together, one for each clause at a boundary of its range. -/

/-- `base` under `UNWRITTEN_READ = fault`, with V0 and V1 written. -/
def strict : State :=
  { (start [(0, 0xFF), (1, 0xFF)] 0xFFF 0x200) with cfg := { base.cfg with unwrittenRead := .fault } }

theorem base_canRead (rs : List Reg) (readsI : Bool) : base.CanRead rs readsI := .inl rfl

theorem base_canReadBytes (a k : Nat) : base.CanReadBytes a k := .inl rfl

theorem strict_canRead : strict.CanRead [0, 1] false := .inr (by decide)

theorem strict_not_canRead : ¬ strict.CanRead [2] false := by
  rintro (h | h)
  · cases h
  · exact absurd (h.1 2 (by simp)) (by decide)

theorem strict_not_canReadBytes (a : Nat) (h : strict.byteWritten a = false) :
    ¬ strict.CanReadBytes a 2 := by
  rintro (hz | hw)
  · cases hz
  · have := hw a (by omega) (by omega)
    rw [h] at this
    cases this

theorem witness_DecodeEncodeRoundTrip : (Instr.storeRegs 0xF).wf = true := by decide

theorem witness_EncodeDecodeRoundTrip :
    decodeWord 0x912F = .ok (.sneReg 1 2) ∧ decodeWord 0xD01F = .ok (.drw 0 1 0xF) := by decide

theorem witness_UnrecognizedWord :
    decodeWord 0x00E1 = .error (.system 0x00E1) ∧ decodeWord 0x8AB8 = .error (.alu 0x8AB8) ∧
    decodeWord 0xE09F = .error (.key 0xE09F) ∧ decodeWord 0xF0FF = .error (.misc 0xF0FF) := by decide

/-- A machine about to run `w` from the last fetchable address. -/
def lastWord (w : Nat) : State := { base with pc := 0xFFE }.withFetchWord 16 w

theorem witness_StepRunsDecodedInstruction :
    (lastWord 0x6155).mode = .running ∧ (lastWord 0x6155).pc.toNat ≤ 0xFFE ∧
    (lastWord 0x6155).CanReadBytes (lastWord 0x6155).pc.toNat 2 ∧
    decode [(lastWord 0x6155).byte 0xFFE, (lastWord 0x6155).byte 0xFFF] = .ok (.ldImm 1 0x55, []) ∧
    decode [base.byte 0x200, base.byte 0x201] = .error (.system 0x0000) :=
  ⟨by decide, by decide, .inl (by decide), by decide, by decide⟩

theorem witness_FetchReadsBigEndianWord :
    ({ base with pc := 0x201 }.pc.toNat ≤ 0xFFE ∧
      { base with pc := 0x201 }.CanReadBytes { base with pc := 0x201 }.pc.toNat 2) ∧
    ({ base with pc := 0xFFE }.pc.toNat ≤ 0xFFE ∧
      { base with pc := 0xFFE }.CanReadBytes { base with pc := 0xFFE }.pc.toNat 2) :=
  ⟨⟨by decide, .inl rfl⟩, by decide, .inl rfl⟩

theorem witness_FetchErrorEntersFaulted :
    ({ base with pc := 0xFFF }.mode = .running ∧ 0xFFE < { base with pc := 0xFFF }.pc.toNat) ∧
    (strict.mode = .running ∧ strict.pc.toNat ≤ 0xFFE ∧ ¬ strict.CanReadBytes strict.pc.toNat 2) :=
  ⟨by decide, by decide, by decide, strict_not_canReadBytes _ (by decide)⟩

theorem witness_FirstError :
    FirstError strict (.ldReg 0 2) .unwrittenRead ∧
    FirstError (start [(1, 0xFF)] 0xFFF 0x202) (.addI 1) .addressOutOfRange ∧
    FirstError (start [] 0xFFE 0x202) (.ldB 0) .addressOutOfRange ∧
    FirstError { base with sp := 15 } (.call 0x400) .stackOverflow ∧
    FirstError base .ret .stackUnderflow ∧
    FirstError { base with port := { HostInputs.quiet with random := none } } (.rnd 0 0) .rngFailure :=
  ⟨.inl ⟨strict_not_canRead, rfl⟩,
   .inr (.inl ⟨.inl rfl, .addI _ (by decide)⟩),
   .inr (.inl ⟨.inl rfl, .run _ (by unfold State.RunFits; decide)⟩),
   .inr (.inl ⟨.inl rfl, .call _ (by decide)⟩),
   .inr (.inl ⟨.inl rfl, .ret (by decide)⟩),
   .inr (.inl ⟨.inl rfl, .rnd _ _ rfl⟩)⟩

/-- The third kind of `FirstError`: the operands may be read and the run fits, but no byte was written. -/
theorem witness_FirstError_bytes :
    FirstError { strict with I := 0x300, written := { strict.written with I := true } } (.loadRegs 1)
      .unwrittenRead := by
  refine .inr (.inr ⟨.inr (by decide), ?_, ?_, rfl⟩)
  · rintro d h
    cases h with
    | run _ h => exact h (.inr (by decide))
  · rintro (h | h)
    · cases h
    · exact absurd (h 0x300 (by decide) (by decide)) (by decide)

/-- No error: the largest run that fits, at the top of memory. -/
theorem noError_store : ∀ c, ¬ FirstError (start [] 0xFF0 0x202) (.storeRegs 0xF) c := by
  rintro c (⟨h, _⟩ | ⟨_, h⟩ | ⟨_, _, h, _⟩)
  · exact h (.inl rfl)
  · cases h with
    | run _ h => exact h (.inr (by decide))
  · exact h (.inl rfl)

theorem noError_draw : ∀ c, ¬ FirstError (start [] 0xFF1 0x202) (.drw 0 1 0xF) c := by
  rintro c (⟨h, _⟩ | ⟨_, h⟩ | ⟨_, _, h, _⟩)
  · exact h (.inl rfl)
  · cases h with
    | run _ h => exact h (.inr (by decide))
  · exact h (.inl rfl)

theorem witness_ErrorEndsTheStep :
    (lastWord 0x00EE).mode = .running ∧ (lastWord 0x00EE).fetch = .ok 0x00EE ∧
    decodeWord 0x00EE = .ok .ret ∧ FirstError (lastWord 0x00EE) .ret .stackUnderflow :=
  ⟨by decide, by decide, by decide, .inr (.inl ⟨.inl (by decide), .ret (by decide)⟩)⟩

theorem witness_OnlyFaultedHasNoStep :
    { base with mode := .faulted ⟨.stackOverflow, 0x300, some 0x2400⟩ }.mode =
      .faulted ⟨.stackOverflow, 0x300, some 0x2400⟩ ∧
    ∀ r, { base with mode := .awaitingKey 3 }.mode ≠ .faulted r :=
  ⟨rfl, fun r => by simp⟩

theorem witness_SignalsAreHandled : (0x0F#8).toNat < 16 ∧ 16 ≤ (0x10#8).toNat := by decide

theorem witness_CycleEndsInOrder :
    (base.returning .halt).mode = .running ∧ (base.returning .halt).signal = some .halt ∧
    { base.returning .cont with port := { HostInputs.quiet with quit := true } }.port.quit = true ∧
    (base.returning .cont).signal = some .cont ∧ Signal.cont ≠ .halt ∧
    (base.returning .cont).port.quit = false := by decide

theorem witness_ModeTransitions :
    (∃ t, step base = .next t) ∧ (∃ t, step { base with mode := .awaitingKey 3 } = .next t) ∧
    (∃ t, step { base with mode := .halted } = .next t) :=
  ⟨⟨_, rfl⟩, ⟨_, rfl⟩, ⟨_, rfl⟩⟩

/-- A step on which host time moves. -/
theorem witness_StepKeepsParametersAndTime :
    ∃ t, step { base with port := { HostInputs.quiet with delayElapsed := 7 } } = .next t ∧ t.clock = 7 :=
  ⟨_, rfl, by decide⟩

/-- A machine that waits for a key, for each clause: a quit request, no key, and the key F. -/
theorem witness_AwaitingKeyStep :
    { base with mode := .awaitingKey 0xF }.mode = .awaitingKey 0xF ∧
    { HostInputs.quiet with quit := true, keyDown := some 0xF }.quit = true ∧
    (HostInputs.quiet.quit = false ∧ HostInputs.quiet.keyDown = none) ∧
    ({ HostInputs.quiet with keyDown := some 0xF }.quit = false ∧
      { HostInputs.quiet with keyDown := some 0xF }.keyDown = some 0xF) := by decide

theorem witness_HaltedStep : { base with mode := .halted }.mode = .halted := rfl

/-- For `TimerUpdateDecays`: the sound timer reaches 0, and stays above it. -/
theorem witness_TimerUpdateDecays :
    ((1#8) ≠ 0 ∧ (1#8).toNat ≤ (10 - 0) / base.cfg.tickPeriod) ∧
    ¬ ((2#8) ≠ 0 ∧ (2#8).toNat ≤ (10 - 0) / base.cfg.tickPeriod) := by decide

theorem witness_ExecutorIgnoresTheHost : ∀ x kk, Instr.drw 0 1 5 ≠ .rnd x kk := by
  intro x kk h
  cases h

theorem witness_SignalsFollowTable :
    base.signal = none ∧ ∃ t, exec (.ldVxK 3) base = .next t ∧ t.signal = some (.awaitKey 3) :=
  ⟨rfl, _, rfl, rfl⟩

theorem witness_EveryInstructionKeepsItsFrame :
    (∀ c, ¬ FirstError (start [] 0xFF0 0x202) (.storeRegs 0xF) c) ∧
    ∃ t, exec (.storeRegs 0xF) (start [] 0xFF0 0x202) = .next t :=
  ⟨noError_store, _, rfl⟩

theorem witness_OnlyCallWritesTheStack :
    (∃ t, exec .ret { base with sp := 1 } = .next t) ∧ (∀ nnn, Instr.ret ≠ .call nnn) ∧
    (∃ t, exec .cls base = .next t) ∧ (∀ nnn, Instr.cls ≠ .call nnn) ∧ Instr.cls ≠ .ret :=
  ⟨⟨_, rfl⟩, (fun _ h => by cases h), ⟨_, rfl⟩, (fun _ h => by cases h), by decide⟩

theorem witness_ReturnUndoesCall :
    { base with sp := 14 }.sp ≠ 15 ∧
    ∃ t, exec (.call 0x210) { base with sp := 14 } = .next t ∧ { t with pc := 0x212 }.sp = t.sp ∧
      { t with pc := 0x212 }.stack = t.stack :=
  ⟨by decide, _, rfl, rfl, rfl⟩

theorem witness_OnlyClearAndDrawTouchTheFramebuffer :
    (∃ t, exec (.ldSTVx 0) base = .next t) ∧ Instr.ldSTVx 0 ≠ .cls ∧
    ∀ x y n, Instr.ldSTVx 0 ≠ .drw x y n :=
  ⟨⟨_, rfl⟩, by decide, fun _ _ _ h => by cases h⟩

/-- A machine at the bounds of the invariant: a waiting Fx0A at the last fetchable address, the deepest
stack with the greatest return address, the greatest I, and the tone on. -/
def bounds : State :=
  { base with mode := .awaitingKey 3, pc := 0xFFE, I := 0xFFF, sp := 15, stack := base.stack.set 15 0x1000
              ST := 1, toneOn := true, mem := [(0xFFF, 1)], clock := 7, anchorDT := 7 }

theorem witness_StepKeepsInvariant : bounds.Inv ∧ ∃ t, step bounds = .next t where
  left :=
    { mem := by decide, writtenMem := by decide, I := by decide, pc := by decide
      waiting := fun _ _ => by decide
      stack := by decide, bottom := by decide, tone := by decide
      anchorDT := by decide, anchorST := by decide, fetched := rfl, signal := rfl }
  right := ⟨_, rfl⟩

theorem witness_StepKeepsUnwrittenAtReset :
    (base.writeV 0xF 0x12).UnwrittenIsReset ∧ ∃ t, step (base.writeV 0xF 0x12) = .next t where
  left :=
    { V := by decide
      I := fun _ => rfl
      mem := fun a ha => by
        have : inGlyphs a = false := ((Bool.or_eq_false_iff).1 ha).1
        show Memory.unlisted _ a = 0
        simp [Memory.unlisted, this] }
  right := ⟨_, rfl⟩

theorem witness_ConstructionLoadsTheRom :
    (List.replicate 0xE00 (0#8)).length ≤ 0xE00 ∧ 0xE00 < (List.replicate 0xE01 (0#8)).length := by
  simp only [List.length_replicate]
  decide

/-- For `AddImmWraps`, `CopyAndLogic`, `OrKeepsVF`, `AddRegSetsCarry`, `SubtractSetsGreater`,
`ShiftsSetShiftedOutBit`, `SkipsCompareWithImmediate`, `SkipsCompareRegisters`, `ComputedJumpAddsV0`,
`LdFPointsAtTheGlyph` and `TimerInstructions`: under `zero`, and under `fault` with written registers. -/
theorem witness_CanRead :
    base.CanRead [0xE, 0xF] false ∧ base.CanRead [0xF] true ∧ strict.CanRead [0, 1] false :=
  ⟨base_canRead _ _, base_canRead _ _, strict_canRead⟩

/-- For `RndMasksTheRandomByte`: a byte, and a failing source. -/
theorem witness_RndMasksTheRandomByte :
    base.port.random = some 0 ∧ { HostInputs.quiet with random := none }.random = none := by decide

theorem witness_SelfJumpHalts :
    (lastWord 0x1FFE).mode = .running ∧ (lastWord 0x1FFE).fetch = .ok (wordNNN 0x1 0xFFE) ∧
    zext16 (0xFFE : Addr12) = (lastWord 0x1FFE).pc := by decide

theorem witness_CallPushesTheReturnAddress :
    { base with sp := 14 }.sp ≠ 15 ∧ { base with sp := 15 }.sp = 15 := by decide

theorem witness_RetPopsTheReturnAddress : { base with sp := 1 }.sp ≠ 0 ∧ base.sp = 0 := by decide

/-- Sums 0xFFF and 0x1000. -/
theorem witness_AddIChecksTheRange :
    (start [(1, 1)] 0xFFE 0x202).I.toNat ≤ 0xFFF ∧ (start [(1, 1)] 0xFFE 0x202).CanRead [1] true ∧
    (start [(1, 1)] 0xFFE 0x202).I.toNat + ((start [(1, 1)] 0xFFE 0x202).readV 1).toNat ≤ 0xFFF ∧
    (start [(1, 1)] 0xFFF 0x202).I.toNat ≤ 0xFFF ∧ (start [(1, 1)] 0xFFF 0x202).CanRead [1] true ∧
    0xFFF < (start [(1, 1)] 0xFFF 0x202).I.toNat + ((start [(1, 1)] 0xFFF 0x202).readV 1).toNat :=
  ⟨by decide, .inl rfl, by decide, by decide, .inl rfl, by decide⟩

theorem witness_LdBStoresTheDigits :
    (start [(1, 157)] 0xFFD 0x202).CanRead [1] true ∧ (start [(1, 157)] 0xFFD 0x202).I.toNat + 2 ≤ 0xFFF ∧
    (start [(1, 157)] 0xFFE 0x202).CanRead [1] true ∧ 0xFFF < (start [(1, 157)] 0xFFE 0x202).I.toNat + 2 :=
  ⟨.inl rfl, by decide, .inl rfl, by decide⟩

/-- x = 0 at 0xFFF and x = F at 0xFF0 fit; x = F at 0xFF1 does not. -/
theorem witness_StoreRegsStoresV0ToVx :
    (∀ r : Reg, r.toNat ≤ (0xF#4).toNat → (start [] 0xFF0 0x202).CanRead [r] true) ∧
    (start [] 0xFFF 0x202).I.toNat + (0x0#4).toNat ≤ 0xFFF ∧
    (start [] 0xFF0 0x202).I.toNat + (0xF#4).toNat ≤ 0xFFF ∧
    0xFFF < (start [] 0xFF1 0x202).I.toNat + (0xF#4).toNat :=
  ⟨fun _ _ => .inl rfl, by decide, by decide, by decide⟩

theorem witness_LoadRegsLoadsV0ToVx :
    (start [] 0xFF0 0x202).CanRead [] true ∧ (start [] 0xFF0 0x202).I.toNat + (0xF#4).toNat ≤ 0xFFF ∧
    (start [] 0xFF0 0x202).CanReadBytes (start [] 0xFF0 0x202).I.toNat ((0xF#4).toNat + 1) ∧
    0xFFF < (start [] 0xFF1 0x202).I.toNat + (0xF#4).toNat :=
  ⟨.inl rfl, by decide, .inl rfl, by decide⟩

/-- n = F at 0xFF1, and n = 0 where neither V2, V3 nor a byte at `I` could be read. -/
theorem witness_DrawXorsTheSprite :
    ((0xF#4) ≠ 0 → (start [] 0xFF1 0x202).CanRead [0, 1] true) ∧ (start [] 0xFF1 0x202).RunFits (0xF#4).toNat ∧
    (start [] 0xFF1 0x202).CanReadBytes (start [] 0xFF1 0x202).I.toNat (0xF#4).toNat ∧
    ((0x0#4) ≠ 0 → strict.CanRead [2, 3] true) ∧ strict.RunFits (0x0#4).toNat ∧
    strict.CanReadBytes strict.I.toNat (0x0#4).toNat ∧
    { base.cfg with drawSetsVF := true }.drawSetsVF = true :=
  ⟨fun _ => .inl rfl, .inr (by decide), .inl rfl, fun h => absurd rfl h, .inl rfl,
   .inr (fun b h h' => absurd (Nat.lt_of_le_of_lt h h') (Nat.lt_irrefl _)), rfl⟩

theorem witness_DrawTwiceRestores :
    ∃ t, exec (.drw 0 1 0xF) (start [] 0xFF1 0x202) = .next t ∧
      (∀ c, ¬ FirstError (start [] 0xFF1 0x202) (.drw 0 1 0xF) c) ∧
      (∀ c, ¬ FirstError { start [] 0xFF1 0x202 with fb := t.fb } (.drw 0 1 0xF) c) :=
  ⟨_, rfl, noError_draw, fun c h => noError_draw c (by
    rcases h with ⟨h, _⟩ | ⟨_, h⟩ | ⟨_, _, h, _⟩
    · exact absurd (.inl rfl) h
    · cases h with
      | run _ h => exact absurd (.inr (by decide)) h
    · exact absurd (.inl rfl) h)⟩

/-- For `TimerInstructions`: a zero set of a running sound timer, of a stopped one, and a non-zero set. -/
theorem witness_TimerInstructions :
    ({ base with ST := 5 }.readV 1 = 0 ∧ { base with ST := 5 }.ST ≠ 0) ∧ base.ST = 0 ∧
    (start [(1, 0xFF)] 0 0x202).readV 1 ≠ 0 := by decide

/-- For `KeySkips`: V0 = 0x0F held, and V0 = 0x10, which is no key. -/
theorem witness_KeySkips :
    ((start [(0, 0x0F)] 0 0x210).withFetchWord 16 0xE09E).fetch = .ok (wordXKK 0xE 0 0x9E) ∧
    ((start [(0, 0x10)] 0 0x210).withFetchWord 16 0xE0A1).fetch = .ok (wordXKK 0xE 0 0xA1) ∧
    ((start [(0, 0x10)] 0 0x210).withFetchWord 16 0xE0A1).mode = .running ∧
    ((start [(0, 0x10)] 0 0x210).withFetchWord 16 0xE0A1).CanRead [0] false :=
  ⟨by decide, by decide, by decide, .inl (by decide)⟩

theorem witness_KeyWaitBegins :
    (lastWord 0xFF0A).mode = .running ∧ (lastWord 0xFF0A).fetch = .ok (wordXKK 0xF 0xF 0x0A) := by decide

end Sys2Proof.Tests
end

section
/-! PROOF. The skips on a comparison with an immediate, 3xkk and 4xkk (41_flow.md R134, R135). -/

namespace Sys2Proof.Laws

/-- Family 3 has one row, selected by the top nibble alone (30_encoding.md R73). -/
theorem decodeWord_wordXKK_3 (x : Reg) (kk : Byte) :
    decodeWord (wordXKK 0x3 x kk) = .ok (.seImm x kk) := by
  simp only [decodeWord, opField_wordXKK, xField_wordXKK, kkField_wordXKK]
  rfl

/-- Family 4 has one row, selected by the top nibble alone (30_encoding.md R73). -/
theorem decodeWord_wordXKK_4 (x : Reg) (kk : Byte) :
    decodeWord (wordXKK 0x4 x kk) = .ok (.sneImm x kk) := by
  simp only [decodeWord, opField_wordXKK, xField_wordXKK, kkField_wordXKK]
  rfl

end Sys2Proof.Laws

namespace Sys2Proof.Machine

variable (s : State)

/-- A skip moves `pc` by exactly 2 more bytes, or not at all (41_flow.md R139). -/
theorem State.skipIf_pc (p : Bool) : (s.skipIf p).pc = if p then s.pc + 2 else s.pc := by
  cases p <;> rfl

theorem frame_skipIf (p : Bool) : Frame s (s.skipIf p) [] 0 0 [.pc] := by
  cases p with
  | false => exact frame_refl s _ _ _ _
  | true => exact frame_advance s

/-- The frame of every register skip: `pc` and the signal. -/
theorem frame_skipIf_continued (p : Bool) :
    Frame s (s.skipIf p).continued [] 0 0 [.pc, .signal] :=
  Frame.trans
    ((frame_skipIf s p).mono (by simp) (.inl rfl) (by simp))
    ((frame_continued (s.skipIf p)).mono (by simp) (.inl rfl) (by simp))

theorem exec_seImm_of_canRead {x : Reg} (h : s.CanRead [x] false) (kk : Byte) :
    exec (.seImm x kk) s = .next (s.skipIf (s.readV x = kk)).continued :=
  congrArg _ (s.withOperands_of_canRead h _)

theorem exec_sneImm_of_canRead {x : Reg} (h : s.CanRead [x] false) (kk : Byte) :
    exec (.sneImm x kk) s = .next (s.skipIf (s.readV x ≠ kk)).continued :=
  congrArg _ (s.withOperands_of_canRead h _)

end Sys2Proof.Machine

namespace Sys2Proof.Proofs

open Sys2Proof.Laws Sys2Proof.Machine

/-- Settles O42: a readable V[x] makes each instruction the register skip on its comparison, whose `pc`
and frame are known for every condition. -/
theorem skipsCompareWithImmediate : Obligations.SkipsCompareWithImmediate := by
  unfold Obligations.SkipsCompareWithImmediate
  intro x kk
  refine ⟨⟨decodeWord_wordXKK_3 x kk, fun s h => ?_⟩, decodeWord_wordXKK_4 x kk, fun s h => ?_⟩
  · exact ⟨_, exec_seImm_of_canRead s h kk, by simp [State.skipIf_pc], rfl, frame_skipIf_continued s _⟩
  · exact ⟨_, exec_sneImm_of_canRead s h kk, by simp [State.skipIf_pc], rfl, frame_skipIf_continued s _⟩

end Sys2Proof.Proofs
end

section
/-! PROOF. The immediate load and the immediate add, 6xkk and 7xkk (42_alu.md R150, R151). -/

namespace Sys2Proof.Laws

/-- Family 6 has one row, selected by the top nibble alone (30_encoding.md R73). -/
theorem decodeWord_wordXKK_6 (x : Reg) (kk : Byte) :
    decodeWord (wordXKK 0x6 x kk) = .ok (.ldImm x kk) := by
  simp only [decodeWord, opField_wordXKK, xField_wordXKK, kkField_wordXKK]
  rfl

/-- Family 7 has one row, selected by the top nibble alone (30_encoding.md R73). -/
theorem decodeWord_wordXKK_7 (x : Reg) (kk : Byte) :
    decodeWord (wordXKK 0x7 x kk) = .ok (.addImm x kk) := by
  simp only [decodeWord, opField_wordXKK, xField_wordXKK, kkField_wordXKK]
  rfl

end Sys2Proof.Laws

namespace Sys2Proof.Machine

variable (s : State)

/-- The frame of every instruction that writes one V register and no flag: that register and the
signal. -/
theorem frame_writeV_continued (x : Reg) (b : Byte) :
    Frame s (s.writeV x b).continued [x] 0 0 [.signal] :=
  Frame.trans
    ((frame_writeV s x b).mono (List.Subset.refl _) (.inl rfl) (by simp))
    ((frame_continued (s.writeV x b)).mono (by simp) (.inl rfl) (List.Subset.refl _))

/-- The load reads no operand, so it completes in every state (42_alu.md R150). -/
theorem exec_ldImm (x : Reg) (kk : Byte) :
    exec (.ldImm x kk) s = .next (s.writeV x kk).continued :=
  rfl

theorem exec_addImm_of_canRead {x : Reg} (h : s.CanRead [x] false) (kk : Byte) :
    exec (.addImm x kk) s = .next (s.writeV x (s.readV x + kk)).continued :=
  congrArg _ (s.withOperands_of_canRead h _)

end Sys2Proof.Machine

namespace Sys2Proof.Proofs

open Sys2Proof.Laws Sys2Proof.Machine

/-- Settles O30: the load is one register write with `Continue`, in every state. -/
theorem ldImmLoads : Obligations.LdImmLoads := by
  unfold Obligations.LdImmLoads
  refine fun x kk => ⟨decodeWord_wordXKK_6 x kk, fun s => ?_⟩
  have value : (s.writeV x kk).continued.readV x = kk := s.readV_writeV_same x kk
  exact ⟨_, exec_ldImm s x kk, value, rfl, frame_writeV_continued s x kk⟩

/-- Settles O31: a readable V[x] makes the add one register write of the 8-bit sum, whose number is the
sum modulo 256. -/
theorem addImmWraps : Obligations.AddImmWraps := by
  unfold Obligations.AddImmWraps
  refine fun x kk => ⟨decodeWord_wordXKK_7 x kk, fun s h => ?_⟩
  have value : (s.writeV x (s.readV x + kk)).continued.readV x = s.readV x + kk :=
    s.readV_writeV_same x _
  have sum : ((s.writeV x (s.readV x + kk)).continued.readV x).toNat =
      ((s.readV x).toNat + kk.toNat) % 256 := by
    rw [value, BitVec.toNat_add]
  exact ⟨_, exec_addImm_of_canRead s h kk, sum, rfl, frame_writeV_continued s x _⟩

end Sys2Proof.Proofs
end

section
/-! PROOF. The address register load, Annn (43_index_memory.md R180). -/

namespace Sys2Proof.Laws

/-- Family A has one row, selected by the top nibble alone (30_encoding.md R73). -/
theorem decodeWord_wordNNN_A (nnn : Addr12) : decodeWord (wordNNN 0xA nnn) = .ok (.ldI nnn) := by
  simp only [decodeWord, opField_wordNNN, nnnField_wordNNN]
  rfl

end Sys2Proof.Laws

namespace Sys2Proof.Machine

variable (s : State)

/-- The frame of every instruction that completes with a write of `I`: that register and the signal. -/
theorem frame_writeI_continued (v : Word) :
    Frame s (s.writeI v).continued [] 0 0 [.I, .signal] :=
  Frame.trans
    ((frame_writeI s v).mono (by simp) (.inl rfl) (by simp))
    ((frame_continued (s.writeI v)).mono (by simp) (.inl rfl) (by simp))

/-- The load reads no operand and checks no range, so it completes in every state (43_index_memory.md
R180). -/
theorem exec_ldI (nnn : Addr12) : exec (.ldI nnn) s = .next (s.writeI (zext16 nnn)).continued :=
  rfl

end Sys2Proof.Machine

namespace Sys2Proof.Proofs

open Sys2Proof.Laws Sys2Proof.Machine

/-- Settles O45: the load is one write of `I` with `Continue`, in every state, and widening the address
to a word keeps its number. -/
theorem ldILoadsTheAddress : Obligations.LdILoadsTheAddress := by
  unfold Obligations.LdILoadsTheAddress
  refine fun nnn => ⟨decodeWord_wordNNN_A nnn, fun s => ?_⟩
  have value : (s.writeI (zext16 nnn)).continued.I.toNat = nnn.toNat :=
    BitVec.toNat_setWidth_of_le (by decide)
  exact ⟨_, exec_ldI s nnn, value, rfl, frame_writeI_continued s _⟩

end Sys2Proof.Proofs
end

section
/-! PROOF. The clear, 00E0 (44_display.md R200). -/

namespace Sys2Proof.Laws

/-- In family 0 the whole word selects (30_encoding.md R74). -/
theorem decodeWord_00E0 : decodeWord 0x00E0#16 = .ok .cls := by decide

end Sys2Proof.Laws

namespace Sys2Proof.Machine

variable (s : State)

/-- Replacing the framebuffer touches no other part. -/
theorem frame_withFb (fb : Framebuffer) : Frame s { s with fb := fb } [] 0 0 [.fb] := by
  constructor
  case V => exact fun r _ => ⟨rfl, rfl⟩
  case mem => exact fun a _ => ⟨rfl, rfl⟩
  all_goals simp

/-- The frame of a completed framebuffer operation that writes no register: new pixels, an event, and the
signal. -/
theorem frame_withFb_emit_continued (fb : Framebuffer) (e : Event) :
    Frame s (({ s with fb := fb }).emit e).continued [] 0 0 [.fb, .events, .signal] :=
  have pixels := (frame_withFb s fb).mono (by simp) (.inl rfl) (by simp)
  have event := (frame_emit { s with fb := fb } e).mono (by simp) (.inl rfl) (by simp)
  have signal := (frame_continued (({ s with fb := fb }).emit e)).mono (by simp) (.inl rfl) (by simp)
  (pixels.trans event).trans signal

/-- The clear reads no operand and looks at no pixel, so it completes and renders in every state
(44_display.md R200). -/
theorem exec_cls :
    exec .cls s = .next (({ s with fb := blankFb }).emit (.render blankFb)).continued :=
  rfl

end Sys2Proof.Machine

namespace Sys2Proof.Proofs

open Sys2Proof.Laws Sys2Proof.Machine

/-- Settles O51: the clear replaces the framebuffer by the blank one, whose pixels are all off, and renders
it with `Continue`, in every state. -/
theorem clsClearsTheFramebuffer : Obligations.ClsClearsTheFramebuffer := by
  unfold Obligations.ClsClearsTheFramebuffer
  exact ⟨decodeWord_00E0, fun s =>
    ⟨_, exec_cls s, pixel_blank, rfl, rfl, frame_withFb_emit_continued s blankFb (.render blankFb)⟩⟩

end Sys2Proof.Proofs
end

section
/-! PROOF. The decoder and the encoder against each other: the round trips, and the unrecognized words
(30_encoding.md sections 3 and 4). -/

namespace Sys2Proof.Laws

/-! The families -/

/-- A nibble that is no other value is F, the decoder's last family. -/
theorem nibble_F_of_ne : ∀ a : Nibble, a ≠ 0x0#4 → a ≠ 0x1#4 → a ≠ 0x2#4 → a ≠ 0x3#4 → a ≠ 0x4#4 → a ≠ 0x5#4 →
    a ≠ 0x6#4 → a ≠ 0x7#4 → a ≠ 0x8#4 → a ≠ 0x9#4 → a ≠ 0xA#4 → a ≠ 0xB#4 → a ≠ 0xC#4 → a ≠ 0xD#4 → a ≠ 0xE#4 →
    a = 0xF#4 := by
  intros; bv_omega

section
variable {w : Word}

theorem decodeWord_family_0 (h : opField w = 0x0#4) : decodeWord w = decodeSystem w := by
  rw [decodeWord, h]; rfl

theorem decodeWord_family_5 (h : opField w = 0x5#4) : decodeWord w = .ok (.seReg (xField w) (yField w)) := by
  rw [decodeWord, h]; rfl

theorem decodeWord_family_9 (h : opField w = 0x9#4) : decodeWord w = .ok (.sneReg (xField w) (yField w)) := by
  rw [decodeWord, h]; rfl

theorem decodeWord_family_8 (h : opField w = 0x8#4) : decodeWord w = decodeAlu w := by
  rw [decodeWord, h]; rfl

theorem decodeWord_family_E (h : opField w = 0xE#4) : decodeWord w = decodeKey w := by
  rw [decodeWord, h]; rfl

theorem decodeWord_family_F (h : opField w = 0xF#4) : decodeWord w = decodeMisc w := by
  rw [decodeWord, h]; rfl

end

/-- Families 5 and 9 do not look at the low nibble (30_encoding.md R78). -/
theorem decodeWord_wordXYN_5 (x y : Reg) (d : Nibble) : decodeWord (wordXYN 0x5 x y d) = .ok (.seReg x y) := by
  simp [decodeWord_family_5]

theorem decodeWord_wordXYN_9 (x y : Reg) (d : Nibble) : decodeWord (wordXYN 0x9 x y d) = .ok (.sneReg x y) := by
  simp [decodeWord_family_9]

theorem decodeWord_wordXYN_8 (x y : Reg) (n : Nibble) :
    decodeWord (wordXYN 0x8#4 x y n) = decodeAlu (wordXYN 0x8#4 x y n) :=
  decodeWord_family_8 (opField_wordXYN ..)

theorem decodeWord_wordXKK_E (x : Reg) (kk : Byte) :
    decodeWord (wordXKK 0xE#4 x kk) = decodeKey (wordXKK 0xE#4 x kk) :=
  decodeWord_family_E (opField_wordXKK ..)

theorem decodeWord_wordXKK_F (x : Reg) (kk : Byte) :
    decodeWord (wordXKK 0xF#4 x kk) = decodeMisc (wordXKK 0xF#4 x kk) :=
  decodeWord_family_F (opField_wordXKK ..)

/-! Decoding an encoded instruction -/

/-- The word of an instruction decodes to it: the fields of the word are the operands, and its fixed fields
select the instruction's row (R73). -/
theorem decodeWord_encode (i : Instr) : decodeWord (encode i) = .ok i := by
  cases i with
  | cls | ret => decide
  | jp nnn | call nnn | ldI nnn | jpV0 nnn =>
    simp only [encode, decodeWord, opField_wordNNN, nnnField_wordNNN]
  | seImm x kk | sneImm x kk | ldImm x kk | addImm x kk | rnd x kk =>
    simp only [encode, decodeWord, opField_wordXKK, xField_wordXKK, kkField_wordXKK]
  | seReg x y => exact decodeWord_wordXYN_5 x y 0
  | sneReg x y => exact decodeWord_wordXYN_9 x y 0
  | ldReg x y | orReg x y | andReg x y | xorReg x y | addReg x y | subReg x y | shr x y | subn x y | shl x y =>
    simp only [encode, decodeWord_wordXYN_8, decodeAlu, nField_wordXYN, xField_wordXYN, yField_wordXYN]
  | drw x y n =>
    simp only [encode, decodeWord, opField_wordXYN, xField_wordXYN, yField_wordXYN, nField_wordXYN]
  | skp x | sknp x =>
    simp only [encode, decodeWord_wordXKK_E, decodeKey, kkField_wordXKK, xField_wordXKK]
  | ldVxDT x | ldVxK x | ldDTVx x | ldSTVx x | addI x | ldF x | ldB x | storeRegs x | loadRegs x =>
    simp only [encode, decodeWord_wordXKK_F, decodeMisc, kkField_wordXKK, xField_wordXKK]

/-! Encoding a decoded word -/

section
variable {w : Word} {i : Instr}

/-- A word of a family whose format is NNN is made of its family and its address. -/
theorem wordNNN_of_opField {a : Nibble} (h : opField w = a) : wordNNN a (nnnField w) = w :=
  h ▸ wordNNN_fields w

theorem wordXKK_of_fields {a : Nibble} {kk : Byte} (h : opField w = a) (hk : kkField w = kk) :
    wordXKK a (xField w) kk = w :=
  h ▸ hk ▸ wordXKK_fields w

theorem wordXYN_of_fields {a n : Nibble} (h : opField w = a) (hn : nField w = n) :
    wordXYN a (xField w) (yField w) n = w :=
  h ▸ hn ▸ wordXYN_fields w

theorem encode_of_decodeSystem (h : decodeSystem w = .ok i) : encode i = w := by
  unfold decodeSystem at h
  split at h
  case isTrue hw => cases h; exact hw.symm
  split at h
  case isTrue hw => cases h; exact hw.symm
  case isFalse => cases h

theorem encode_of_decodeAlu (hop : opField w = 0x8#4) (h : decodeAlu w = .ok i) : encode i = w := by
  unfold decodeAlu at h
  split at h <;> cases h <;> exact wordXYN_of_fields hop ‹_›

theorem encode_of_decodeKey (hop : opField w = 0xE#4) (h : decodeKey w = .ok i) : encode i = w := by
  unfold decodeKey at h
  split at h <;> cases h <;> exact wordXKK_of_fields hop ‹_›

theorem encode_of_decodeMisc (hop : opField w = 0xF#4) (h : decodeMisc w = .ok i) : encode i = w := by
  unfold decodeMisc at h
  split at h <;> cases h <;> exact wordXKK_of_fields hop ‹_›

end

/-! The unrecognized words -/

section
variable {w : Word}

theorem decodeSystem_error_iff :
    (∃ r, decodeSystem w = .error r) ↔ w ≠ 0x00E0#16 ∧ w ≠ 0x00EE#16 := by
  unfold decodeSystem
  split
  case isTrue h => simp [h]
  split
  case isTrue h => simp [h]
  case isFalse h h' => simp [h, h']

/-- The low nibbles that no row of family 8 has (30_encoding.md R75). -/
theorem nibble_unused_by_alu : ∀ n : Nibble, n ≠ 0x0#4 → n ≠ 0x1#4 → n ≠ 0x2#4 → n ≠ 0x3#4 → n ≠ 0x4#4 →
    n ≠ 0x5#4 → n ≠ 0x6#4 → n ≠ 0x7#4 → n ≠ 0xE#4 →
    n ∈ [0x8#4, 0x9#4, 0xA#4, 0xB#4, 0xC#4, 0xD#4, 0xF#4] := by decide

theorem decodeAlu_error_iff : (∃ r, decodeAlu w = .error r) ↔
    nField w ∈ [0x8#4, 0x9#4, 0xA#4, 0xB#4, 0xC#4, 0xD#4, 0xF#4] := by
  unfold decodeAlu
  split
  case h_10 => simp only [Except.error.injEq, exists_eq', true_iff]; apply nibble_unused_by_alu <;> assumption
  all_goals next h => rw [h]; simp

theorem decodeKey_error_iff : (∃ r, decodeKey w = .error r) ↔ kkField w ∉ [0x9E#8, 0xA1#8] := by
  unfold decodeKey
  split
  case h_3 => simp_all
  all_goals next h => rw [h]; simp

theorem decodeMisc_error_iff : (∃ r, decodeMisc w = .error r) ↔
    kkField w ∉ [0x07#8, 0x0A#8, 0x15#8, 0x18#8, 0x1E#8, 0x29#8, 0x33#8, 0x55#8, 0x65#8] := by
  unfold decodeMisc
  split
  case h_10 => simp_all
  all_goals next h => rw [h]; simp

end

section
variable {w : Word} {i : Instr}

/-- Outside families 5 and 9 every bit of a word selects or is an operand, so a word that decodes is the
word of its instruction. -/
theorem encode_of_decodeWord (h5 : opField w ≠ 0x5#4) (h9 : opField w ≠ 0x9#4) (h : decodeWord w = .ok i) :
    encode i = w := by
  unfold decodeWord at h
  split at h
  case h_1 => exact encode_of_decodeSystem h
  case h_9 hop => exact encode_of_decodeAlu hop h
  case h_15 hop => exact encode_of_decodeKey hop h
  case h_16 => exact encode_of_decodeMisc (by apply nibble_F_of_ne <;> assumption) h
  case h_6 hop => exact absurd hop h5
  case h_10 hop => exact absurd hop h9
  case h_2 hop | h_3 hop | h_11 hop | h_12 hop => cases h; exact wordNNN_of_opField hop
  case h_4 hop | h_5 hop | h_7 hop | h_8 hop | h_13 hop => cases h; exact wordXKK_of_fields hop rfl
  case h_14 hop => cases h; exact wordXYN_of_fields hop rfl

/-- The other twelve families have one row each, which every word of the family matches (R73). -/
theorem decodeWord_ok_of_one_row (h0 : opField w ≠ 0x0#4) (h8 : opField w ≠ 0x8#4) (hE : opField w ≠ 0xE#4)
    (hF : opField w ≠ 0xF#4) : ∃ i, decodeWord w = .ok i := by
  unfold decodeWord
  split
  case h_1 hop => exact absurd hop h0
  case h_9 hop => exact absurd hop h8
  case h_15 hop => exact absurd hop hE
  case h_16 => exact absurd (by apply nibble_F_of_ne <;> assumption) hF
  all_goals exact ⟨_, rfl⟩

end

/-- The unrecognized words (30_encoding.md R79): family by family, those that select no row. -/
theorem decodeWord_error_iff (w : Word) : (∃ r, decodeWord w = .error r) ↔
    (opField w = 0x0 ∧ w ≠ 0x00E0#16 ∧ w ≠ 0x00EE#16) ∨
    (opField w = 0x8 ∧ nField w ∈ [0x8#4, 0x9#4, 0xA#4, 0xB#4, 0xC#4, 0xD#4, 0xF#4]) ∨
    (opField w = 0xE ∧ kkField w ∉ [0x9E#8, 0xA1#8]) ∨
    (opField w = 0xF ∧ kkField w ∉
      [0x07#8, 0x0A#8, 0x15#8, 0x18#8, 0x1E#8, 0x29#8, 0x33#8, 0x55#8, 0x65#8]) := by
  by_cases h0 : opField w = 0x0#4
  · simp [h0, decodeWord_family_0 h0, decodeSystem_error_iff]
  by_cases h8 : opField w = 0x8#4
  · rw [decodeWord_family_8 h8, decodeAlu_error_iff]; simp [h8]
  by_cases hE : opField w = 0xE#4
  · rw [decodeWord_family_E hE, decodeKey_error_iff]; simp [hE]
  by_cases hF : opField w = 0xF#4
  · rw [decodeWord_family_F hF, decodeMisc_error_iff]; simp [hF]
  obtain ⟨i, hi⟩ := decodeWord_ok_of_one_row h0 h8 hE hF
  simp [hi, h0, h8, hE, hF]

end Sys2Proof.Laws

namespace Sys2Proof.Machine

/-- The frame of an unrecognized word: the diagnostic and the signal (R79). -/
theorem frame_unrecognized (s : State) (w : Word) : Frame s (s.unrecognized w) [] 0 0 [.signal, .events] := by
  constructor <;> simp

theorem executeWord_of_error {w : Word} {r : Reject} (h : decodeWord w = .error r) (s : State) :
    executeWord w s = .next (s.unrecognized w) := by
  simp only [executeWord, h]

theorem executeWord_of_ok {w : Word} {i : Instr} (h : decodeWord w = .ok i) (s : State) :
    executeWord w s = exec i s := by
  simp only [executeWord, h]

end Sys2Proof.Machine

namespace Sys2Proof.Proofs

open Sys2Proof.Laws Sys2Proof.Machine

/-- Settles O1: decoding the two bytes of a word is decoding the word, and the word of an instruction decodes
to it. -/
theorem decodeEncodeRoundTrip : Obligations.DecodeEncodeRoundTrip := by
  unfold Obligations.DecodeEncodeRoundTrip
  intro i rest _
  rw [decode_wordBytes, decodeWord_encode]

/-- Settles O2: families 5 and 9 decode to their one instruction, whose word has the low nibble 0; in every
other family the word is recovered whole. -/
theorem encodeDecodeRoundTrip : Obligations.EncodeDecodeRoundTrip := by
  unfold Obligations.EncodeDecodeRoundTrip
  intro w i h
  by_cases h5 : opField w = 0x5#4
  · rw [decodeWord_family_5 h5] at h
    cases h
    simp [h5, encode]
  by_cases h9 : opField w = 0x9#4
  · rw [decodeWord_family_9 h9] at h
    cases h
    simp [h9, encode]
  exact (if_neg (not_or.2 ⟨h5, h9⟩)).symm ▸ encode_of_decodeWord h5 h9 h

/-- Settles O3: the unrecognized words family by family, and the no-op that each of them executes as. -/
theorem unrecognizedWordIsDiagnosedNoOp : Obligations.UnrecognizedWordIsDiagnosedNoOp := by
  unfold Obligations.UnrecognizedWordIsDiagnosedNoOp
  refine ⟨decodeWord_error_iff, fun w s ⟨r, h⟩ => ?_⟩
  exact ⟨_, executeWord_of_error h s, rfl, rfl, frame_unrecognized s w⟩

/-- Settles O4: the decoder evaluates each of the eight words to its instruction. -/
theorem writtenOutWordsDecode : Obligations.WrittenOutWordsDecode := by
  unfold Obligations.WrittenOutWordsDecode
  decide

end Sys2Proof.Proofs
end

section
/-! PROOF. The executor, said once for every instruction: the error it meets, if any, and else the state it
completes with (40_cycle.md R104, 60_exceptions.md R251 and R257). -/

namespace Sys2Proof.Machine

/-- The conditions of R251 besides the range of a run: those of Fx1E, 2nnn, 00EE and Cxkk. -/
def State.ownCondition (s : State) : Instr → Option ErrorCode
  | .addI x => if 0xFFF < (s.I + zext16 (s.readV x)).toNat then some .addressOutOfRange else none
  | .call _ => if s.sp = 15 then some .stackOverflow else none
  | .ret => if s.sp = 0 then some .stackUnderflow else none
  | .rnd _ _ => if s.port.random = none then some .rngFailure else none
  | _ => none

/-- The condition of R251 that an instruction meets, if any. -/
def State.conditionOf (s : State) (i : Instr) : Option ErrorCode :=
  if runInRange s.I.toNat i.run then s.ownCondition i else some .addressOutOfRange

/-- The error an instruction meets, in the order of R257: its operands, its condition, its bytes. -/
def State.errorOf (s : State) (i : Instr) : Option ErrorCode :=
  if s.operandsReadable i.reads i.readsI then
    (s.conditionOf i).or (if s.bytesReadable s.I.toNat i.runRead then none else some .unwrittenRead)
  else some .unwrittenRead

/-- A set of the sound timer: a zero set silences a running tone at once (45_timers_keys.md R224). -/
def State.setST (s : State) (v : Byte) : State :=
  if v = 0 ∧ s.ST ≠ 0 then { s with ST := v }.stopTone else { s with ST := v }

/-- The state with which an instruction completes when it meets no error. -/
def State.completed (s : State) : Instr → State
  | .cls => (({ s with fb := blankFb }).emit (.render blankFb)).continued
  | .ret => (s.pop.jumpTo s.top).continued
  | .jp nnn => (s.jumpTo (zext16 nnn)).returning (if zext16 nnn = s.instrAddr then .halt else .cont)
  | .call nnn => ((s.push s.pc).jumpTo (zext16 nnn)).continued
  | .seImm x kk => (s.skipIf (s.readV x = kk)).continued
  | .sneImm x kk => (s.skipIf (s.readV x ≠ kk)).continued
  | .seReg x y => (s.skipIf (s.readV x = s.readV y)).continued
  | .ldImm x kk => (s.writeV x kk).continued
  | .addImm x kk => (s.writeV x (s.readV x + kk)).continued
  | .ldReg x y => (s.writeV x (s.readV y)).continued
  | .orReg x y => (s.writeV x (s.readV x ||| s.readV y)).continued
  | .andReg x y => (s.writeV x (s.readV x &&& s.readV y)).continued
  | .xorReg x y => (s.writeV x (s.readV x ^^^ s.readV y)).continued
  | .addReg x y => (s.writeFlagged x (s.readV x + s.readV y) (carryFlag (s.readV x) (s.readV y))).continued
  | .subReg x y => (s.writeFlagged x (s.readV x - s.readV y) (greaterFlag (s.readV x) (s.readV y))).continued
  | .shr x _ => (s.writeFlagged x (s.readV x >>> 1) (lowBitFlag (s.readV x))).continued
  | .subn x y => (s.writeFlagged x (s.readV y - s.readV x) (greaterFlag (s.readV y) (s.readV x))).continued
  | .shl x _ => (s.writeFlagged x (s.readV x <<< 1) (highBitFlag (s.readV x))).continued
  | .sneReg x y => (s.skipIf (s.readV x ≠ s.readV y)).continued
  | .ldI nnn => (s.writeI (zext16 nnn)).continued
  | .jpV0 nnn => (s.jumpTo (zext16 nnn + zext16 (s.readV 0))).continued
  | .rnd x kk => (s.writeV x (s.port.random.getD 0 &&& kk)).continued
  | .drw x y n => (s.draw (s.readV x) (s.readV y) (s.loadBytes s.I.toNat n.toNat)).continued
  | .skp x => s.returning (.skipIfPressed (s.readV x))
  | .sknp x => s.returning (.skipIfNotPressed (s.readV x))
  | .ldVxDT x => (s.writeV x s.DT).continued
  | .ldVxK x => (s.jumpTo (s.pc - 2)).returning (.awaitKey x)
  | .ldDTVx x => { s with DT := s.readV x }.returning (if s.readV x ≠ 0 then .timerStarted .delay else .cont)
  | .ldSTVx x => (s.setST (s.readV x)).returning (if s.readV x ≠ 0 then .timerStarted .sound else .cont)
  | .addI x => (s.writeI (s.I + zext16 (s.readV x))).continued
  | .ldF x => (s.writeI (glyphAddr (s.readV x))).continued
  | .ldB x => (s.storeBytes s.I.toNat (bcdDigits (s.readV x))).continued
  | .storeRegs x => (s.storeBytes s.I.toNat ((regsUpTo x).map s.readV)).continued
  | .loadRegs x => (s.loadV s.I.toNat x).continued

variable (s : State)

/-! The error met is the first error -/

@[simp] theorem State.operandsReadable_nil : s.operandsReadable [] false = true :=
  (s.operandsReadable_iff [] false).2 (.inr ⟨by simp, by simp⟩)

@[simp] theorem State.bytesReadable_zero (a : Nat) : s.bytesReadable a 0 = true :=
  (s.bytesReadable_iff a 0).2 (.inr (by omega))

@[simp] theorem runInRange_zero (a : Nat) : runInRange a 0 = true := rfl

theorem State.meets_of_ownCondition {i : Instr} {c : ErrorCode} (h : s.ownCondition i = some c) :
    Meets s i c := by
  cases i with
  | addI x => obtain ⟨hc, ⟨⟩⟩ := Option.ite_none_right_eq_some.1 h; exact .addI x hc
  | call nnn => obtain ⟨hc, ⟨⟩⟩ := Option.ite_none_right_eq_some.1 h; exact .call nnn hc
  | ret => obtain ⟨hc, ⟨⟩⟩ := Option.ite_none_right_eq_some.1 h; exact .ret hc
  | rnd x kk => obtain ⟨hc, ⟨⟩⟩ := Option.ite_none_right_eq_some.1 h; exact .rnd x kk hc
  | _ => cases h

theorem State.conditionOf_eq_some_iff (i : Instr) (c : ErrorCode) :
    s.conditionOf i = some c ↔ Meets s i c := by
  constructor
  · intro h
    unfold conditionOf at h
    split at h
    case isTrue => exact s.meets_of_ownCondition h
    case isFalse hr => cases h; exact .run i (mt (s.runInRange_iff _).2 hr)
  · intro h
    cases h with
    | addI x h => exact if_pos h
    | call nnn h => exact if_pos h
    | ret h => exact if_pos h
    | rnd x kk h => exact if_pos h
    | run i h => exact if_neg (mt (s.runInRange_iff _).1 h)

theorem State.conditionOf_eq_none_iff (i : Instr) : s.conditionOf i = none ↔ ∀ c, ¬ Meets s i c := by
  simp [Option.eq_none_iff_forall_ne_some, s.conditionOf_eq_some_iff]

/-- `errorOf` computes the first error of 60_exceptions.md R257. -/
theorem State.errorOf_eq_some_iff (i : Instr) (c : ErrorCode) : s.errorOf i = some c ↔ FirstError s i c := by
  simp only [errorOf, FirstError, ← s.operandsReadable_iff, ← s.bytesReadable_iff, ← s.conditionOf_eq_some_iff]
  cases s.operandsReadable i.reads i.readsI <;> cases s.conditionOf i <;>
    cases s.bytesReadable s.I.toNat i.runRead <;> simp [eq_comm]

theorem State.errorOf_eq_none_iff (i : Instr) : s.errorOf i = none ↔ ∀ c, ¬ FirstError s i c := by
  simp [Option.eq_none_iff_forall_ne_some, s.errorOf_eq_some_iff]

/-! Every instruction is its error check, then its effect -/

section
variable {s} {i : Instr}

/-- An instruction without a run checks its operands, then its own condition. -/
theorem State.errorOf_of_no_run (hrun : i.run = 0) (hread : i.runRead = 0) :
    s.errorOf i = if s.operandsReadable i.reads i.readsI then s.ownCondition i else some .unwrittenRead := by
  simp [errorOf, conditionOf, hrun, hread]

/-- An instruction without a run or an operand checks only its own condition. -/
theorem State.errorOf_of_no_operands (hrun : i.run = 0) (hread : i.runRead = 0) (hreads : i.reads = [])
    (hI : i.readsI = false) : s.errorOf i = s.ownCondition i := by
  simp [errorOf_of_no_run hrun hread, hreads, hI]

theorem exec_eq_of_operands (h : exec i s = .next (s.withOperands i.reads i.readsI (s.completed i)))
    (hrun : i.run = 0) (hread : i.runRead = 0) (hown : s.ownCondition i = none) :
    exec i s = .next ((s.errorOf i).elim (s.completed i) s.raise) := by
  rw [h, State.errorOf_of_no_run hrun hread, hown, State.withOperands]
  split <;> rfl

theorem exec_eq_of_load
    (h : exec i s = .next (s.withOperands i.reads i.readsI
      (s.withRunAtI i.run (s.withBytesAtI i.runRead (s.completed i)))))
    (hown : s.ownCondition i = none) : exec i s = .next ((s.errorOf i).elim (s.completed i) s.raise) := by
  rw [h]
  unfold State.withOperands State.withRunAtI State.withBytesAtI State.errorOf State.conditionOf
  rw [hown]
  split
  case isFalse => rfl
  split
  case isFalse => rfl
  split <;> rfl

theorem exec_eq_of_store
    (h : exec i s = .next (s.withOperands i.reads i.readsI (s.withRunAtI i.run (s.completed i))))
    (hread : i.runRead = 0) (hown : s.ownCondition i = none) :
    exec i s = .next ((s.errorOf i).elim (s.completed i) s.raise) := by
  refine exec_eq_of_load (h.trans ?_) hown
  simp [State.withBytesAtI, hread]

end

/-- The model's branches of Fx18 are the set and the signal (45_timers_keys.md R224). -/
theorem exec_ldSTVx (x : Reg) :
    exec (.ldSTVx x) s = .next (s.withOperands [x] false (s.completed (.ldSTVx x))) := by
  refine congrArg _ (congrArg _ ?_)
  by_cases hv : s.readV x = 0#8 <;> by_cases hST : s.ST = 0#8 <;>
    simp [State.completed, State.setST, State.continued, hv, hST]

/-- Executing an instruction raises the error it meets, or completes. -/
theorem exec_eq (i : Instr) : exec i s = .next ((s.errorOf i).elim (s.completed i) s.raise) := by
  cases i with
  | cls | jp nnn | ldImm x kk | ldI nnn | ldVxDT x | ldVxK x =>
    rw [State.errorOf_of_no_operands rfl rfl rfl rfl]; rfl
  | ret =>
    rw [State.errorOf_of_no_operands rfl rfl rfl rfl]
    by_cases h : s.sp = 0 <;> simp [exec, execRet, State.ownCondition, State.completed, h]
  | call nnn =>
    rw [State.errorOf_of_no_operands rfl rfl rfl rfl]
    by_cases h : s.sp = 15 <;> simp [exec, execCall, State.ownCondition, State.completed, h]
  | rnd x kk =>
    rw [State.errorOf_of_no_operands rfl rfl rfl rfl]
    cases h : s.port.random <;> simp [exec, execRnd, State.ownCondition, State.completed, h]
  | addI x =>
    rw [State.errorOf_of_no_run rfl rfl, State.ownCondition, Instr.reads, Instr.readsI]
    simp only [exec, execAddI, State.withOperands]
    split
    case isFalse => rfl
    split <;> rfl
  | seImm | sneImm | addImm | shr | shl | skp | sknp | ldDTVx | ldF | seReg | sneReg | orReg | andReg
  | xorReg | addReg | subReg | subn | ldReg | jpV0 => exact exec_eq_of_operands rfl rfl rfl rfl
  | ldSTVx x => exact exec_eq_of_operands (exec_ldSTVx s x) rfl rfl rfl
  | ldB | storeRegs => exact exec_eq_of_store rfl rfl rfl
  | loadRegs | drw => exact exec_eq_of_load rfl rfl

/-- An instruction that meets no error completes. -/
theorem exec_of_noError {i : Instr} (h : s.errorOf i = none) : exec i s = .next (s.completed i) := by
  rw [exec_eq, h]; rfl

/-- An instruction that meets an error raises it and does nothing else. -/
theorem exec_of_error {i : Instr} {c : ErrorCode} (h : s.errorOf i = some c) :
    exec i s = .next (s.raise c) := by
  rw [exec_eq, h]; rfl

variable {s} in
/-- What an executed instruction can answer: the one inversion of the executor. -/
theorem exec_cases {i : Instr} {t : State} (h : exec i s = .next t) :
    (∃ c, s.errorOf i = some c ∧ t = s.raise c) ∨ (s.errorOf i = none ∧ t = s.completed i) := by
  rw [exec_eq] at h
  cases h
  cases he : s.errorOf i with
  | some c => exact .inl ⟨c, rfl, rfl⟩
  | none => exact .inr ⟨rfl, rfl⟩

/-- An instruction whose one check is that of its operands completes when they may be read. -/
theorem exec_of_canRead {i : Instr} (h : s.CanRead i.reads i.readsI) (hrun : i.run = 0) (hread : i.runRead = 0)
    (hown : s.ownCondition i = none) : exec i s = .next (s.completed i) := by
  refine exec_of_noError s ?_
  rw [State.errorOf_of_no_run hrun hread, if_pos ((s.operandsReadable_iff _ _).2 h), hown]

/-! The signals -/

/-- The signal of an instruction that completes (40_cycle.md R106). -/
def State.signalOf (s : State) : Instr → Signal
  | .jp nnn => if zext16 nnn = s.pc - 2 then .halt else .cont
  | .ldDTVx x => if s.readV x ≠ 0 then .timerStarted .delay else .cont
  | .ldSTVx x => if s.readV x ≠ 0 then .timerStarted .sound else .cont
  | .ldVxK x => .awaitKey x
  | .skp x => .skipIfPressed (s.readV x)
  | .sknp x => .skipIfNotPressed (s.readV x)
  | _ => .cont

@[simp] theorem State.completed_signal (i : Instr) : (s.completed i).signal = some (s.signalOf i) := by
  cases i <;> rfl

end Sys2Proof.Machine

namespace Sys2Proof.Proofs

open Sys2Proof.Machine

/-- Settles O19: a raised error leaves no signal, and an instruction that completes has the one of the
table. -/
theorem signalsFollowTable : Obligations.SignalsFollowTable := by
  unfold Obligations.SignalsFollowTable
  intro i s t sig hs hexec hsig
  rcases exec_cases hexec with ⟨c, _, rfl⟩ | ⟨_, rfl⟩
  · rw [State.raise_signal, hs] at hsig
    cases hsig
  · rw [State.completed_signal] at hsig
    cases hsig
    cases i with
    | ldDTVx | ldSTVx => exact ite_not ..
    | _ => rfl

end Sys2Proof.Proofs
end

section
/-! PROOF. What an executed instruction leaves unchanged: its frame, the stack, the framebuffer, the mode,
and the host's answers (10_state.md sections 2 to 7, 60_exceptions.md section 3). -/

namespace Sys2Proof.Machine

/-- One change after another changes what either changes; the second one stores nothing. -/
theorem Frame.comp {s t u : State} {vs vs' : List Reg} {lo len : Nat} {ps ps' : List Part}
    (h : Frame s t vs lo len ps) (h' : Frame t u vs' 0 0 ps') : Frame s u (vs ++ vs') lo len (ps ++ ps') :=
  Frame.trans
    (h.mono (List.subset_append_left _ _) (.inr ⟨le_rfl, le_rfl⟩) (List.subset_append_left _ _))
    (h'.mono (List.subset_append_right _ _) (.inl rfl) (List.subset_append_right _ _))

variable (s : State)

theorem frame_writeFlagged (x : Reg) (b f : Byte) : Frame s (s.writeFlagged x b f) [x, vf] 0 0 [] :=
  (frame_writeV s x b).comp (frame_writeV (s.writeV x b) vf f)

theorem frame_withDT (v : Byte) : Frame s { s with DT := v } [] 0 0 [.DT] := by
  constructor
  case V => exact fun r _ => ⟨rfl, rfl⟩
  case mem => exact fun a _ => ⟨rfl, rfl⟩
  all_goals simp

theorem frame_withST (v : Byte) : Frame s { s with ST := v } [] 0 0 [.ST] := by
  constructor
  case V => exact fun r _ => ⟨rfl, rfl⟩
  case mem => exact fun a _ => ⟨rfl, rfl⟩
  all_goals simp

theorem frame_stopTone : Frame s s.stopTone [] 0 0 [.toneOn, .events] := by constructor <;> simp

/-- A set of ST that silences no tone. -/
theorem frame_setST_of_silent {v : Byte} (h : ¬ (v = 0 ∧ s.ST ≠ 0)) : Frame s (s.setST v) [] 0 0 [.ST] := by
  rw [State.setST, if_neg h]
  exact frame_withST s v

theorem frame_setST (v : Byte) : Frame s (s.setST v) [] 0 0 [.ST, .toneOn, .events] := by
  by_cases h : v = 0 ∧ s.ST ≠ 0
  · rw [State.setST, if_pos h]
    exact (frame_withST s v).comp (frame_stopTone _)
  · exact (frame_setST_of_silent s h).mono (by simp) (.inl rfl) (by simp)

/-- A draw is an optional write of VF, then new pixels, then a `Render` (44_display.md R202, R204, R205). -/
theorem frame_draw (cx ry : Byte) (sprite : List Byte) :
    Frame s (s.draw cx ry sprite) (if s.cfg.drawSetsVF then [vf] else []) 0 0 [.fb, .events] := by
  unfold State.draw
  dsimp only
  split
  · exact ((frame_withFb s _).comp (frame_writeV _ vf _)).comp (frame_emit _ _)
  · exact (frame_withFb s _).comp (frame_emit _ _)

/-- An instruction that completes changes the registers it writes, the bytes it stores from `I` on, and the
parts of its rule. -/
theorem frame_completed (i : Instr) :
    Frame s (s.completed i) (i.writes s.cfg.drawSetsVF) s.I.toNat i.stores (partsOf i) := by
  cases i with
  | cls => exact (frame_withFb_emit_continued s _ _).mono (by simp) (.inl rfl) (by simp [partsOf])
  | ret =>
    exact (((frame_pop s).comp (frame_jumpTo _ _)).comp (frame_continued _)).mono (by simp) (.inl rfl)
      (by simp [partsOf])
  | call nnn =>
    exact (((frame_push s _).comp (frame_jumpTo _ _)).comp (frame_continued _)).mono (by simp) (.inl rfl)
      (by simp [partsOf])
  | jp nnn | ldVxK x | jpV0 nnn =>
    exact ((frame_jumpTo s _).comp (frame_returning _ _)).mono (by simp) (.inl rfl) (by simp [partsOf])
  | seImm x kk | sneImm x kk | seReg x y | sneReg x y =>
    exact (frame_skipIf_continued s _).mono (by simp) (.inl rfl) (by simp [partsOf])
  | ldImm x kk | addImm x kk | ldReg x y | orReg x y | andReg x y | xorReg x y | rnd x kk | ldVxDT x =>
    exact (frame_writeV_continued s x _).mono (by simp [Instr.writes]) (.inl rfl) (by simp [partsOf])
  | addReg x y | subReg x y | shr x y | subn x y | shl x y =>
    exact ((frame_writeFlagged s x _ _).comp (frame_continued _)).mono (by simp [Instr.writes]) (.inl rfl)
      (by simp [partsOf])
  | ldI nnn | addI x | ldF x => exact (frame_writeI_continued s _).mono (by simp) (.inl rfl) (by simp [partsOf])
  | skp x | sknp x => exact (frame_returning s _).mono (by simp) (.inl rfl) (by simp [partsOf])
  | drw x y n =>
    exact ((frame_draw s _ _ _).comp (frame_continued _)).mono (by simp [Instr.writes]) (.inl rfl)
      (by simp [partsOf])
  | ldDTVx x =>
    exact ((frame_withDT s _).comp (frame_returning _ _)).mono (by simp) (.inl rfl) (by simp [partsOf])
  | ldSTVx x =>
    exact ((frame_setST s _).comp (frame_returning _ _)).mono (by simp) (.inl rfl) (by simp [partsOf])
  | ldB x =>
    exact ((frame_storeBytes s _ _).comp (frame_continued _)).mono (by simp)
      (.inr (by simp [bcdDigits, Instr.stores])) (by simp [partsOf])
  | storeRegs x =>
    exact ((frame_storeBytes s _ _).comp (frame_continued _)).mono (by simp)
      (.inr (by simp [State.regsUpTo_length, Instr.stores])) (by simp [partsOf])
  | loadRegs x =>
    exact ((frame_loadV s _ x).comp (frame_continued _)).mono (by simp [Instr.writes, regsUpTo]) (.inl rfl)
      (by simp [partsOf])

/-- No instruction changes the mode: signals do that (40_cycle.md R107). -/
theorem mode_notin_partsOf (i : Instr) : .mode ∉ partsOf i := by cases i <;> simp [partsOf]

theorem stack_notin_partsOf {i : Instr} (h : ∀ nnn, i ≠ .call nnn) : .stack ∉ partsOf i := by
  cases i with
  | call nnn => exact absurd rfl (h nnn)
  | _ => simp [partsOf]

theorem sp_notin_partsOf {i : Instr} (h : ∀ nnn, i ≠ .call nnn) (h' : i ≠ .ret) : .sp ∉ partsOf i := by
  cases i with
  | call nnn => exact absurd rfl (h nnn)
  | ret => exact absurd rfl h'
  | _ => simp [partsOf]

theorem fb_notin_partsOf {i : Instr} (h : i ≠ .cls) (h' : ∀ x y n, i ≠ .drw x y n) : .fb ∉ partsOf i := by
  cases i with
  | cls => exact absurd rfl h
  | drw x y n => exact absurd rfl (h' x y n)
  | _ => simp [partsOf]

theorem State.completed_mode (i : Instr) : (s.completed i).mode = s.mode :=
  (frame_completed s i).mode (mode_notin_partsOf i)

theorem State.setST_events (v : Byte) :
    (s.setST v).events = s.events ∨ (s.setST v).events = s.events ++ [.toneStop] := by
  unfold setST
  split
  · exact .inr rfl
  · exact .inl rfl

/-- Of the instructions that leave the framebuffer alone only Fx18 emits an event, and it is `ToneStop`. -/
theorem State.completed_events_of_no_draw {i : Instr} (h : i ≠ .cls) (h' : ∀ x y n, i ≠ .drw x y n) :
    (s.completed i).events = s.events ∨ (s.completed i).events = s.events ++ [.toneStop] := by
  cases i
  case cls => exact absurd rfl h
  case drw x y n => exact absurd rfl (h' x y n)
  case ldSTVx x => exact s.setST_events _
  all_goals exact .inl ((frame_completed s _).events (by simp [partsOf]))

/-! The host's answers -/

theorem State.errorOf_withPort (p : HostInputs) {i : Instr} (h : ∀ x kk, i ≠ .rnd x kk) :
    { s with port := p }.errorOf i = s.errorOf i := by
  cases i
  case rnd x kk => exact absurd rfl (h x kk)
  all_goals rfl

theorem State.storeBytes_withPort (p : HostInputs) (a : Nat) (bs : List Byte) :
    { s with port := p }.storeBytes a bs = { s.storeBytes a bs with port := p } := by
  induction bs generalizing s a with
  | nil => rfl
  | cons b bs ih =>
    have step : { s with port := p }.storeByte a b = { s.storeByte a b with port := p } := by
      unfold storeByte
      split <;> rfl
    rw [storeBytes, step, ih]
    rfl

theorem State.readV_withPort (p : HostInputs) (r : Reg) : { s with port := p }.readV r = s.readV r := rfl

theorem State.skipIf_withPort (p : HostInputs) (b : Bool) :
    { s with port := p }.skipIf b = { s.skipIf b with port := p } := by
  cases b <;> rfl

theorem State.setST_withPort (p : HostInputs) (v : Byte) :
    { s with port := p }.setST v = { s.setST v with port := p } := by
  unfold setST
  split <;> rfl

theorem State.draw_withPort (p : HostInputs) (cx ry : Byte) (sprite : List Byte) :
    { s with port := p }.draw cx ry sprite = { s.draw cx ry sprite with port := p } := by
  unfold draw
  dsimp only
  split <;> rfl

theorem State.completed_withPort (p : HostInputs) {i : Instr} (h : ∀ x kk, i ≠ .rnd x kk) :
    { s with port := p }.completed i = { s.completed i with port := p } := by
  cases i with
  | rnd x kk => exact absurd rfl (h x kk)
  | seImm x kk | sneImm x kk | seReg x y | sneReg x y =>
    simp only [completed, skipIf_withPort]; rfl
  | drw x y n => exact congrArg continued (s.draw_withPort p _ _ _)
  | ldSTVx x => simp only [completed, readV_withPort, setST_withPort]; rfl
  | ldB x => exact congrArg continued (s.storeBytes_withPort p _ _)
  | storeRegs x => exact congrArg continued (s.storeBytes_withPort p _ _)
  | _ => rfl

end Sys2Proof.Machine

namespace Sys2Proof.Proofs

open Sys2Proof.Machine

/-- Settles O8: `errorOf` computes the first error, and the executor is that check and then the completed
state. -/
theorem errorsAreExactlyTheListed : Obligations.ErrorsAreExactlyTheListed := by
  unfold Obligations.ErrorsAreExactlyTheListed
  refine fun i s => ⟨fun c h => exec_of_error s ((s.errorOf_eq_some_iff i c).2 h), fun h => ?_⟩
  exact ⟨_, _, exec_of_noError s ((s.errorOf_eq_none_iff i).2 h), s.completed_signal i, s.completed_mode i⟩

/-- Settles O20: an instruction that meets no error is its completed state, whose frame is known. -/
theorem everyInstructionKeepsItsFrame : Obligations.EveryInstructionKeepsItsFrame := by
  unfold Obligations.EveryInstructionKeepsItsFrame
  intro i s t h hexec
  rw [exec_of_noError s ((s.errorOf_eq_none_iff i).2 h)] at hexec
  cases hexec
  exact frame_completed s i

/-- Settles O21: neither a raised error nor the frame of another instruction names the stack or `sp`. -/
theorem onlyCallWritesTheStack : Obligations.OnlyCallWritesTheStack := by
  unfold Obligations.OnlyCallWritesTheStack
  intro i s t hexec hcall
  rcases exec_cases hexec with ⟨c, _, rfl⟩ | ⟨_, rfl⟩
  · exact ⟨rfl, fun _ => rfl⟩
  · exact ⟨(frame_completed s i).stack (stack_notin_partsOf hcall),
      fun hret => (frame_completed s i).sp (sp_notin_partsOf hcall hret)⟩

/-- Settles O23: a raised error emits `Fault`, and another instruction at most `ToneStop`. -/
theorem onlyClearAndDrawTouchTheFramebuffer : Obligations.OnlyClearAndDrawTouchTheFramebuffer := by
  unfold Obligations.OnlyClearAndDrawTouchTheFramebuffer
  intro i s t hexec hcls hdrw
  rcases exec_cases hexec with ⟨c, _, rfl⟩ | ⟨_, rfl⟩
  · exact ⟨rfl, by simp⟩
  · refine ⟨(frame_completed s i).fb (fb_notin_partsOf hcls hdrw), fun fb hfb => ?_⟩
    rcases s.completed_events_of_no_draw hcls hdrw with he | he <;> simpa [he] using hfb

/-- Settles O18: without Cxkk neither the error check nor the completed state looks at the host's answers. -/
theorem executorIgnoresTheHost : Obligations.ExecutorIgnoresTheHost := by
  unfold Obligations.ExecutorIgnoresTheHost
  intro i s p h
  rw [exec_eq, exec_eq, s.errorOf_withPort p h, s.completed_withPort p h]
  cases s.errorOf i <;> rfl

end Sys2Proof.Proofs
end

section
/-! PROOF. The jumps, calls, returns and register skips (41_flow.md sections 1 to 3). -/

namespace Sys2Proof.Machine

variable (s : State)

/-- The frame of an instruction that completes and stores nothing, in the terms of its own statement. -/
theorem frame_completed_of_no_store {i : Instr} {vs : List Reg} {ps : List Part} (hs : i.stores = 0)
    (hv : i.writes s.cfg.drawSetsVF ⊆ vs) (hp : partsOf i ⊆ ps) : Frame s (s.completed i) vs 0 0 ps :=
  (frame_completed s i).mono hv (.inl hs) hp

theorem exec_jp (nnn : Addr12) : exec (.jp nnn) s = .next (s.completed (.jp nnn)) := rfl

theorem exec_call_below_limit (nnn : Addr12) (h : s.sp ≠ 15) :
    exec (.call nnn) s = .next (s.completed (.call nnn)) :=
  congrArg _ (if_neg h)

theorem exec_call_at_limit (nnn : Addr12) (h : s.sp = 15) :
    exec (.call nnn) s = .next (s.raise .stackOverflow) :=
  congrArg _ (if_pos h)

theorem exec_ret_of_call (h : s.sp ≠ 0) : exec .ret s = .next (s.completed .ret) :=
  congrArg _ (if_neg h)

theorem exec_ret_of_empty (h : s.sp = 0) : exec .ret s = .next (s.raise .stackUnderflow) :=
  congrArg _ (if_pos h)

/-- An address field keeps its number when it is widened to a word. -/
theorem zext16_addr_toNat (nnn : Addr12) : (zext16 nnn).toNat = nnn.toNat :=
  BitVec.toNat_setWidth_of_le (by decide)

theorem zext16_byte_toNat (b : Byte) : (zext16 b).toNat = b.toNat :=
  BitVec.toNat_setWidth_of_le (by decide)

/-- The sum of an address field and a byte does not wrap. -/
theorem zext16_add_toNat (nnn : Addr12) (b : Byte) : (zext16 nnn + zext16 b).toNat = nnn.toNat + b.toNat := by
  have := nnn.isLt
  have := b.isLt
  rw [BitVec.toNat_add, zext16_addr_toNat, zext16_byte_toNat, Nat.mod_eq_of_lt (by omega)]

/-- A push leaves every entry but the new one as it was. -/
theorem State.push_stack_other (v : Word) (j : Fin 16) (h : j ≠ (s.push v).sp) :
    (s.push v).stack[j.val] = s.stack[j.val] := by
  rw [push_stack]
  exact Vector.getElem_set_ne _ _ fun e => h (Fin.ext e.symm)

/-- A pop of a non-empty stack: `sp` is one less. -/
theorem State.sp_pop (h : s.sp ≠ 0) : s.sp.val = s.pop.sp.val + 1 := by
  have h' : s.sp.val ≠ 0 := fun e => h (Fin.ext e)
  have := s.sp.isLt
  rw [pop_sp]
  omega

/-- After a push below the limit the stack is not empty. -/
theorem State.push_sp_ne_zero (v : Word) (h : s.sp ≠ 15) : (s.push v).sp ≠ 0 := by
  intro e
  have := s.sp_push v h
  rw [e] at this
  cases this

theorem State.top_congr {s t : State} (hsp : t.sp = s.sp) (hstack : t.stack = s.stack) : t.top = s.top := by
  simp [top, hsp, hstack]

end Sys2Proof.Machine

namespace Sys2Proof.Proofs

open Sys2Proof.Laws Sys2Proof.Machine

/-- Settles O38: the jump completes in every state; its signal is the model's self-jump test itself. -/
theorem jumpDetectsItself : Obligations.JumpDetectsItself := by
  unfold Obligations.JumpDetectsItself
  refine fun nnn => ⟨decodeWord_encode (.jp nnn), fun s => ⟨_, exec_jp s nnn, zext16_addr_toNat nnn, rfl, ?_⟩⟩
  exact frame_completed_of_no_store s rfl (by simp [Instr.writes]) (by simp [partsOf])

/-- Settles O40: below the limit a call is a push of the advanced `pc` and a jump; at the limit it raises. -/
theorem callPushesTheReturnAddress : Obligations.CallPushesTheReturnAddress := by
  unfold Obligations.CallPushesTheReturnAddress
  refine fun nnn => ⟨decodeWord_encode (.call nnn), fun s => ⟨fun h => ?_, exec_call_at_limit s nnn⟩⟩
  exact ⟨_, exec_call_below_limit s nnn h, s.sp_push s.pc h, s.top_push s.pc, s.push_stack_other s.pc,
    zext16_addr_toNat nnn, rfl, frame_completed_of_no_store s rfl (by simp [Instr.writes]) (by simp [partsOf])⟩

/-- Settles O41: with an outstanding call a return is a pop and a jump to the entry that was on top; with
none it raises. -/
theorem retPopsTheReturnAddress : Obligations.RetPopsTheReturnAddress := by
  unfold Obligations.RetPopsTheReturnAddress
  refine ⟨decodeWord_encode .ret, fun s => ⟨fun h => ?_, exec_ret_of_empty s⟩⟩
  exact ⟨_, exec_ret_of_call s h, rfl, s.sp_pop h, rfl,
    frame_completed_of_no_store s rfl (by simp [Instr.writes]) (by simp [partsOf])⟩

/-- Settles O22: the push leaves a non-empty stack with the advanced `pc` on top, which the return takes. -/
theorem returnUndoesCall : Obligations.ReturnUndoesCall := by
  unfold Obligations.ReturnUndoesCall
  refine fun s nnn h => ⟨_, exec_call_below_limit s nnn h, fun u hsp hstack => ?_⟩
  have hu : u.sp ≠ 0 := hsp ▸ s.push_sp_ne_zero s.pc h
  have htop : u.top = s.pc := (State.top_congr (s := s.push s.pc) hsp hstack).trans (s.top_push s.pc)
  have hback : u.pop.sp = s.sp := (congrArg (· - 1) hsp).trans (s.sp_pop_push s.pc)
  exact ⟨_, exec_ret_of_call u hu, htop, hback, rfl⟩

/-- Settles O43: the low nibble selects nothing in families 5 and 9, and with readable operands each
instruction is the skip on its comparison. -/
theorem skipsCompareRegisters : Obligations.SkipsCompareRegisters := by
  unfold Obligations.SkipsCompareRegisters
  refine fun x y => ⟨⟨decodeWord_wordXYN_5 x y, fun s h => ?_⟩, decodeWord_wordXYN_9 x y, fun s h => ?_⟩
  · have pc : (s.completed (.seReg x y)).pc = if s.readV x = s.readV y then s.pc + 2 else s.pc := by
      simp [State.completed, State.skipIf_pc]
    exact ⟨_, exec_of_canRead s h rfl rfl rfl, pc, rfl,
      frame_completed_of_no_store s rfl (by simp [Instr.writes]) (by simp [partsOf])⟩
  · have pc : (s.completed (.sneReg x y)).pc = if s.readV x = s.readV y then s.pc else s.pc + 2 := by
      simp [State.completed, State.skipIf_pc]
    exact ⟨_, exec_of_canRead s h rfl rfl rfl, pc, rfl,
      frame_completed_of_no_store s rfl (by simp [Instr.writes]) (by simp [partsOf])⟩

/-- Settles O44: the target is a 12-bit and an 8-bit number added as 16-bit words, which cannot wrap. -/
theorem computedJumpAddsV0 : Obligations.ComputedJumpAddsV0 := by
  unfold Obligations.ComputedJumpAddsV0
  refine fun nnn => ⟨decodeWord_encode (.jpV0 nnn), fun s h => ?_⟩
  exact ⟨_, exec_of_canRead (i := .jpV0 nnn) s h rfl rfl rfl, zext16_add_toNat nnn _, rfl,
    frame_completed_of_no_store s rfl (by simp [Instr.writes]) (by simp [partsOf])⟩

end Sys2Proof.Proofs
end

section
/-! PROOF. The register copies, the ALU and the random instruction (42_alu.md sections 2 to 4). -/

namespace Sys2Proof.Machine

variable (s : State)

/-! The values -/

theorem flagOf_decide (p : Prop) [Decidable p] : flagOf (decide p) = if p then 1 else 0 := by simp [flagOf]

theorem flagOf_toNat (p : Bool) : (flagOf p).toNat = p.toNat := by cases p <;> rfl

/-- The bit 0 that a right shift drops is the remainder by 2 (42_alu.md R158). -/
theorem lowBitFlag_toNat (a : Byte) : (lowBitFlag a).toNat = a.toNat % 2 := by
  rw [lowBitFlag, flagOf_toNat, ← BitVec.testBit_toNat, Nat.toNat_testBit, Nat.pow_zero, Nat.div_one]

/-- The bit 7 that a left shift drops is the quotient by 128 (R160). -/
theorem highBitFlag_toNat (a : Byte) : (highBitFlag a).toNat = a.toNat / 128 := by
  have := a.isLt
  rw [highBitFlag, flagOf_toNat, ← BitVec.testBit_toNat, Nat.toNat_testBit]
  omega

theorem shiftRight_one_toNat (a : Byte) : (a >>> 1).toNat = a.toNat / 2 := by
  rw [BitVec.toNat_ushiftRight, Nat.shiftRight_eq_div_pow, Nat.pow_one]

theorem shiftLeft_one_toNat (a : Byte) : (a <<< 1).toNat = a.toNat * 2 % 256 := by
  rw [BitVec.toNat_shiftLeft, Nat.shiftLeft_eq, Nat.pow_one]

/-- A difference modulo 256, without a negative number in between. -/
theorem sub_toNat_byte (a b : Byte) : (a - b).toNat = (a.toNat + 256 - b.toNat) % 256 := by
  have := b.isLt
  rw [BitVec.toNat_sub]
  congr 1
  omega

/-! The registers after a result with its flag -/

theorem State.readV_writeFlagged_vf (x : Reg) (b f : Byte) : (s.writeFlagged x b f).readV vf = f := by
  simp [readV_writeFlagged]

theorem State.readV_writeFlagged_result {x : Reg} (h : x ≠ vf) (b f : Byte) :
    (s.writeFlagged x b f).readV x = b := by
  simp [readV_writeFlagged, h]

/-! The two shapes of an ALU instruction -/

section
variable {s} {i : Instr} {x : Reg}

/-- An instruction that completes with one register write. -/
theorem result_of_writeV {b : Byte} (h : exec i s = .next (s.writeV x b).continued) :
    ∃ t, exec i s = .next t ∧ t.readV x = b ∧ t.signal = some .cont ∧ Frame s t [x] 0 0 [.signal] :=
  ⟨_, h, s.readV_writeV_same x b, rfl, frame_writeV_continued s x b⟩

/-- An instruction that completes with a result and then its flag in VF. -/
theorem result_of_writeFlagged {b f : Byte} (h : exec i s = .next (s.writeFlagged x b f).continued) :
    ∃ t, exec i s = .next t ∧ (x ≠ vf → t.readV x = b) ∧ t.readV vf = f ∧ t.signal = some .cont ∧
      Frame s t [x, vf] 0 0 [.signal] :=
  ⟨_, h, fun hx => s.readV_writeFlagged_result hx b f, s.readV_writeFlagged_vf x b f, rfl,
    (frame_writeFlagged s x b f).comp (frame_continued _)⟩

end

/-! Cxkk -/

theorem exec_rnd_of_byte {r : Byte} (h : s.port.random = some r) (x : Reg) (kk : Byte) :
    exec (.rnd x kk) s = .next (s.writeV x (r &&& kk)).continued := by
  simp [exec, execRnd, h]

theorem exec_rnd_of_failure (h : s.port.random = none) (x : Reg) (kk : Byte) :
    exec (.rnd x kk) s = .next (s.raise .rngFailure) := by
  simp [exec, execRnd, h]

end Sys2Proof.Machine

namespace Sys2Proof.Proofs

open Sys2Proof.Laws Sys2Proof.Machine

/-- Settles O32: with readable operands each instruction is one register write, of the copy or of the bitwise
operation. -/
theorem copyAndLogic : Obligations.CopyAndLogic := by
  unfold Obligations.CopyAndLogic
  refine fun x y => ⟨⟨decodeWord_encode (.ldReg x y), fun s h => ?_⟩,
    ⟨decodeWord_encode (.andReg x y), fun s h => ?_⟩, decodeWord_encode (.xorReg x y), fun s h => ?_⟩
  · exact result_of_writeV (exec_of_canRead (i := .ldReg x y) s h rfl rfl rfl)
  · obtain ⟨t, ht, value, rest⟩ := result_of_writeV (exec_of_canRead (i := .andReg x y) s h rfl rfl rfl)
    exact ⟨t, ht, fun b => by rw [value, BitVec.getLsbD_and], rest⟩
  · obtain ⟨t, ht, value, rest⟩ := result_of_writeV (exec_of_canRead (i := .xorReg x y) s h rfl rfl rfl)
    exact ⟨t, ht, fun b => by rw [value, BitVec.getLsbD_xor], rest⟩

/-- Settles O33: with readable operands 8xy1 is one register write, of the bitwise or, so VF keeps its
value. -/
theorem orKeepsVF : Obligations.OrKeepsVF := by
  unfold Obligations.OrKeepsVF
  refine fun x y => ⟨decodeWord_encode (.orReg x y), fun s h => ?_⟩
  obtain ⟨t, ht, value, rest⟩ := result_of_writeV (exec_of_canRead (i := .orReg x y) s h rfl rfl rfl)
  exact ⟨t, ht, fun b => by rw [value, BitVec.getLsbD_or], rest⟩

/-- Settles O34: with readable operands 8xy4 writes the sum and then the carry. -/
theorem addRegSetsCarry : Obligations.AddRegSetsCarry := by
  unfold Obligations.AddRegSetsCarry
  refine fun x y => ⟨decodeWord_encode (.addReg x y), fun s h => ?_⟩
  obtain ⟨t, ht, sum, flag, rest⟩ :=
      result_of_writeFlagged (exec_of_canRead (i := .addReg x y) s h rfl rfl rfl)
  exact ⟨t, ht, fun hx => by rw [sum hx, BitVec.toNat_add], flag.trans (flagOf_decide _), rest⟩

/-- Settles O35: with readable operands 8xy5 and 8xy7 write the difference and then whether the minuend is the
greater one. -/
theorem subtractSetsGreater : Obligations.SubtractSetsGreater := by
  unfold Obligations.SubtractSetsGreater
  refine fun x y => ⟨⟨decodeWord_encode (.subReg x y), fun s h => ?_⟩,
    decodeWord_encode (.subn x y), fun s h => ?_⟩
  · obtain ⟨t, ht, diff, flag, rest⟩ :=
      result_of_writeFlagged (exec_of_canRead (i := .subReg x y) s h rfl rfl rfl)
    exact ⟨t, ht, fun hx => by rw [diff hx, sub_toNat_byte], flag.trans (flagOf_decide _), rest⟩
  · obtain ⟨t, ht, diff, flag, rest⟩ :=
      result_of_writeFlagged (exec_of_canRead (i := .subn x y) s h rfl rfl rfl)
    exact ⟨t, ht, fun hx => by rw [diff hx, sub_toNat_byte], flag.trans (flagOf_decide _), rest⟩

/-- Settles O36: with V[x] readable 8xy6 and 8xyE write the shifted value and then the bit that left it;
V[y] plays no part. -/
theorem shiftsSetShiftedOutBit : Obligations.ShiftsSetShiftedOutBit := by
  unfold Obligations.ShiftsSetShiftedOutBit
  refine fun x y => ⟨⟨decodeWord_encode (.shr x y), fun s h => ?_⟩, decodeWord_encode (.shl x y), fun s h => ?_⟩
  · obtain ⟨t, ht, shifted, flag, rest⟩ :=
      result_of_writeFlagged (exec_of_canRead (i := .shr x y) s h rfl rfl rfl)
    exact ⟨t, ht, fun hx => by rw [shifted hx, shiftRight_one_toNat], by rw [flag, lowBitFlag_toNat], rest⟩
  · obtain ⟨t, ht, shifted, flag, rest⟩ :=
      result_of_writeFlagged (exec_of_canRead (i := .shl x y) s h rfl rfl rfl)
    exact ⟨t, ht, fun hx => by rw [shifted hx, shiftLeft_one_toNat], by rw [flag, highBitFlag_toNat], rest⟩

/-- Settles O37: the host's byte is written masked, and a failing source raises before kk is looked at. -/
theorem rndMasksTheRandomByte : Obligations.RndMasksTheRandomByte := by
  unfold Obligations.RndMasksTheRandomByte
  refine fun x kk => ⟨decodeWord_encode (.rnd x kk), fun s => ⟨fun r h => ?_, fun h => ?_⟩⟩
  · exact result_of_writeV (exec_rnd_of_byte s h x kk)
  · exact exec_rnd_of_failure s h x kk

end Sys2Proof.Proofs
end

section
/-! PROOF. The address register and the memory transfers (43_index_memory.md sections 1 and 2). -/

namespace Sys2Proof.Machine

variable (s : State)

/-! Fx1E and Fx29 -/

theorem exec_addI_of_canRead {x : Reg} (h : s.CanRead [x] true) :
    exec (.addI x) s = .next (if 0xFFF < (s.I + zext16 (s.readV x)).toNat then s.raise .addressOutOfRange
      else s.completed (.addI x)) :=
  congrArg _ (s.withOperands_of_canRead h _)

/-- From an `I` in memory the sum does not wrap (43_index_memory.md R181). -/
theorem I_add_toNat (h : s.I.toNat ≤ 0xFFF) (v : Byte) : (s.I + zext16 v).toNat = s.I.toNat + v.toNat := by
  have := v.isLt
  rw [BitVec.toNat_add, zext16_byte_toNat, Nat.mod_eq_of_lt (by omega)]

theorem glyphAddr_toNat (v : Byte) : (glyphAddr v).toNat = 0x050 + 5 * v.toNat := by
  have := v.isLt
  have value : (glyphAddr v).toNat = (0x050 + 5 * v.toNat % 65536) % 65536 := by
    rw [glyphAddr, BitVec.toNat_add, BitVec.toNat_mul, zext16_byte_toNat]; rfl
  omega

/-! The runs at `I` -/

section
variable {s} {i : Instr}

theorem State.canReadBytes_zero (a : Nat) : s.CanReadBytes a 0 := .inr (by omega)

/-- With readable operands, its run in memory and readable bytes, an instruction without a condition of its
own completes. -/
theorem exec_of_run (h : s.CanRead i.reads i.readsI) (hrun : s.RunFits i.run)
    (hbytes : s.CanReadBytes s.I.toNat i.runRead) (hown : s.ownCondition i = none) :
    exec i s = .next (s.completed i) := by
  refine exec_of_noError s ?_
  rw [State.errorOf, if_pos ((s.operandsReadable_iff _ _).2 h), State.conditionOf,
    if_pos ((s.runInRange_iff _).2 hrun), hown, if_pos ((s.bytesReadable_iff _ _).2 hbytes)]
  rfl

/-- With readable operands, a run that leaves memory raises, whatever the bytes (60_exceptions.md R257). -/
theorem exec_of_run_outside (h : s.CanRead i.reads i.readsI) (hrun : ¬ s.RunFits i.run) :
    exec i s = .next (s.raise .addressOutOfRange) := by
  refine exec_of_error s ?_
  rw [State.errorOf, if_pos ((s.operandsReadable_iff _ _).2 h), State.conditionOf,
    if_neg (mt (s.runInRange_iff _).1 hrun)]
  rfl

theorem State.runFits_of_last {k : Nat} (h : s.I.toNat + k ≤ 0xFFF) : s.RunFits (k + 1) := .inr (by omega)

theorem State.not_runFits_of_last {k : Nat} (h : 0xFFF < s.I.toNat + k) : ¬ s.RunFits (k + 1) := by
  unfold RunFits
  omega

end

/-- Each byte of a run that fits is stored at its place (20_memory.md R54). -/
theorem State.byte_storeBytes_at_I {bs : List Byte} (h : s.RunFits bs.length) (i : Nat) (hi : i < bs.length) :
    (s.storeBytes s.I.toNat bs).byte (s.I.toNat + i) = bs[i] := by
  refine s.byte_storeBytes_inside _ bs i hi ?_
  rcases h with h | h
  · omega
  · exact h

/-! Fx33 and Fx55 -/

theorem bcdDigits_length (v : Byte) : (bcdDigits v).length = 3 := rfl

/-- A digit fits a byte. -/
theorem digit_toNat {n : Nat} (h : n < 256) : (BitVec.ofNat 8 n).toNat = n := by
  rw [BitVec.toNat_ofNat, Nat.mod_eq_of_lt h]

/-- `I` and `V[0]` to `V[x]` may be read together if each of the registers may be read with `I`. -/
theorem State.canRead_regsUpTo {x : Reg} (h : ∀ r : Reg, r.toNat ≤ x.toNat → s.CanRead [r] true) :
    s.CanRead (regsUpTo x) true := by
  by_cases hz : s.cfg.unwrittenRead = .zero
  · exact .inl hz
  have written (r : Reg) (hr : r.toNat ≤ x.toNat) : s.regWritten r = true ∧ s.written.I = true := by
    obtain hc | ⟨hV, hI⟩ := h r hr
    · exact absurd hc hz
    · exact ⟨hV r (by simp), hI rfl⟩
  refine .inr ⟨fun r hr => ?_, fun _ => (written 0 (Nat.zero_le _)).2⟩
  obtain ⟨n, hn, rfl⟩ := List.mem_map.1 hr
  rw [List.mem_range] at hn
  refine (written _ ?_).1
  rw [BitVec.toNat_ofNat]
  exact (Nat.mod_le _ _).trans (by omega)

theorem State.map_readV_regsUpTo_length (x : Reg) : ((regsUpTo x).map s.readV).length = x.toNat + 1 := by
  rw [List.length_map, regsUpTo_length]

/-- The bytes Fx55 stores are the registers in their order. -/
theorem State.getElem_map_readV_regsUpTo {x r : Reg} (h : r.toNat < ((regsUpTo x).map s.readV).length) :
    ((regsUpTo x).map s.readV)[r.toNat] = s.readV r := by
  rw [List.getElem_map, getElem_regsUpTo, BitVec.ofNat_toNat, BitVec.setWidth_eq]

end Sys2Proof.Machine

namespace Sys2Proof.Proofs

open Sys2Proof.Laws Sys2Proof.Machine

/-- Settles O46: from an `I` in memory the model's check of the 16-bit sum is the check of the plain sum. -/
theorem addIChecksTheRange : Obligations.AddIChecksTheRange := by
  unfold Obligations.AddIChecksTheRange
  refine fun x => ⟨decodeWord_encode (.addI x), fun s hI h => ?_⟩
  have sum := I_add_toNat s hI (s.readV x)
  rw [exec_addI_of_canRead s h, sum]
  refine ⟨fun hle => ?_, fun hgt => congrArg _ (if_pos hgt)⟩
  exact ⟨_, congrArg _ (if_neg (Nat.not_lt.2 hle)), sum, rfl, frame_writeI_continued s _⟩

/-- Settles O47: with V[x] readable Fx29 writes `I`, and the glyph address of a byte does not wrap. -/
theorem ldFPointsAtTheGlyph : Obligations.LdFPointsAtTheGlyph := by
  unfold Obligations.LdFPointsAtTheGlyph
  refine fun x => ⟨decodeWord_encode (.ldF x), fun s h => ?_⟩
  exact ⟨_, exec_of_canRead (i := .ldF x) s h rfl rfl rfl, glyphAddr_toNat _, rfl, frame_writeI_continued s _⟩

/-- Settles O48: a run of three bytes that fits holds the digits, each smaller than 256. -/
theorem ldBStoresTheDigits : Obligations.LdBStoresTheDigits := by
  unfold Obligations.LdBStoresTheDigits
  refine fun x => ⟨decodeWord_encode (.ldB x), fun s h => ⟨fun hI => ?_, fun hI => ?_⟩⟩
  · have fits : s.RunFits (bcdDigits (s.readV x)).length := State.runFits_of_last hI
    have byte (i : Nat) (hi : i < 3) :
        (s.completed (.ldB x)).byte (s.I.toNat + i) = (bcdDigits (s.readV x))[i] :=
      s.byte_storeBytes_at_I fits i hi
    have := (s.readV x).isLt
    refine ⟨_, exec_of_run (i := .ldB x) h fits (State.canReadBytes_zero _) rfl, ?_, ?_, ?_, rfl,
      frame_completed s (.ldB x)⟩
    · exact (congrArg _ (byte 0 (by decide))).trans (digit_toNat (by omega))
    · exact (congrArg _ (byte 1 (by decide))).trans (digit_toNat (by omega))
    · exact (congrArg _ (byte 2 (by decide))).trans (digit_toNat (by omega))
  · exact exec_of_run_outside (i := .ldB x) h (State.not_runFits_of_last hI)

/-- Settles O49: a run of x + 1 bytes that fits holds the registers in their order. -/
theorem storeRegsStoresV0ToVx : Obligations.StoreRegsStoresV0ToVx := by
  unfold Obligations.StoreRegsStoresV0ToVx
  refine fun x => ⟨decodeWord_encode (.storeRegs x), fun s h => ⟨fun hI => ?_, fun hI => ?_⟩⟩
  · have fits : s.RunFits ((regsUpTo x).map s.readV).length :=
      s.map_readV_regsUpTo_length x ▸ State.runFits_of_last hI
    refine ⟨_, exec_of_run (i := .storeRegs x) (s.canRead_regsUpTo h) (State.runFits_of_last hI)
      (State.canReadBytes_zero _) rfl, fun r hr => ?_, rfl, frame_completed s (.storeRegs x)⟩
    have hr' : r.toNat < ((regsUpTo x).map s.readV).length := by
      rw [s.map_readV_regsUpTo_length]; omega
    exact (s.byte_storeBytes_at_I fits r.toNat hr').trans (s.getElem_map_readV_regsUpTo hr')
  · exact exec_of_run_outside (i := .storeRegs x) (s.canRead_regsUpTo h) (State.not_runFits_of_last hI)

/-- Settles O50: a run of x + 1 readable bytes that fits is loaded into the registers in their order. -/
theorem loadRegsLoadsV0ToVx : Obligations.LoadRegsLoadsV0ToVx := by
  unfold Obligations.LoadRegsLoadsV0ToVx
  refine fun x => ⟨decodeWord_encode (.loadRegs x), fun s h => ⟨fun hI hbytes => ?_, fun hI => ?_⟩⟩
  · refine ⟨_, exec_of_run (i := .loadRegs x) h (State.runFits_of_last hI) hbytes rfl, fun r hr => ?_, rfl,
      frame_completed_of_no_store s rfl (List.Subset.refl _) (List.Subset.refl _)⟩
    rw [State.completed, State.continued_readV, s.readV_loadV, if_pos hr]
  · exact exec_of_run_outside (i := .loadRegs x) h (State.not_runFits_of_last hI)

end Sys2Proof.Proofs
end

section
/-! PROOF. The draw, Dxyn (44_display.md section 2). -/

namespace Sys2Proof.Machine

variable (s : State)

/-! What a draw leaves in the parts it writes -/

@[simp] theorem State.draw_fb (cx ry : Byte) (sprite : List Byte) :
    (s.draw cx ry sprite).fb = (drawRows cx.toNat ry.toNat sprite (s.fb, false)).1 := by
  rw [draw_eq]

theorem State.draw_events (cx ry : Byte) (sprite : List Byte) :
    (s.draw cx ry sprite).events = s.events ++ [.render (s.draw cx ry sprite).fb] := by
  rw [draw_eq]

theorem State.draw_readV_vf (h : s.cfg.drawSetsVF = true) (cx ry : Byte) (sprite : List Byte) :
    (s.draw cx ry sprite).readV vf = flagOf (drawRows cx.toNat ry.toNat sprite (s.fb, false)).2 := by
  simp only [draw_eq, h, if_true]
  exact s.readV_writeV_same vf _

/-- A draw of no rows is the write of VF = 0 under `DRAW_SETS_VF`, and the `Render` of what stands there. -/
theorem State.draw_nil (cx ry : Byte) :
    s.draw cx ry [] = (if s.cfg.drawSetsVF then s.writeV vf 0 else s).emit (.render s.fb) := rfl

theorem State.draw_nil_events (cx ry : Byte) : (s.draw cx ry []).events = s.events ++ [.render s.fb] := by
  rw [draw_events, draw_fb, drawRows_nil]

/-! The sprite of an instruction -/

/-- A row count is a nibble, so a sprite has no more rows than the framebuffer. -/
theorem State.loadBytes_nibble_length (a : Nat) (n : Nibble) : (s.loadBytes a n.toNat).length ≤ 32 := by
  rw [loadBytes_length]
  omega

theorem State.loadBytes_congr {s u : State} {a k : Nat} (h : ∀ i, i < k → u.byte (a + i) = s.byte (a + i)) :
    u.loadBytes a k = s.loadBytes a k :=
  List.map_congr_left fun i hi => h i (List.mem_range.1 hi)

/-- A flag is 1 exactly if its condition holds. -/
theorem flagOf_eq_one_iff (p : Bool) : flagOf p = 1 ↔ p = true := by cases p <;> decide

theorem flagOf_eq_zero_iff (p : Bool) : flagOf p = 0 ↔ p = false := by cases p <;> decide

section
variable (cx ry : Byte) {sprite : List Byte} (hl : sprite.length ≤ 32)
include hl

/-- The pixels a draw inverts (44_display.md R201-R203). -/
theorem State.draw_pixel_ne_iff (r : Fin 32) (c : Fin 64) :
    pixel (s.draw cx ry sprite).fb r c ≠ pixel s.fb r c ↔ SpriteCovers cx ry sprite r c := by
  rw [draw_fb]
  exact (drawRows_spec cx ry sprite hl s.fb).1 r c

/-- The collision flag of a draw (R205). -/
theorem State.draw_vf_eq_one_iff (h : s.cfg.drawSetsVF = true) :
    (s.draw cx ry sprite).readV vf = 1 ↔ ∃ r c, SpriteCovers cx ry sprite r c ∧ pixel s.fb r c = true := by
  rw [s.draw_readV_vf h, flagOf_eq_one_iff]
  exact (drawRows_spec cx ry sprite hl s.fb).2

theorem State.draw_vf_eq_zero_iff (h : s.cfg.drawSetsVF = true) :
    (s.draw cx ry sprite).readV vf = 0 ↔ ¬ ∃ r c, SpriteCovers cx ry sprite r c ∧ pixel s.fb r c = true := by
  rw [s.draw_readV_vf h, flagOf_eq_zero_iff, ← Bool.not_eq_true, (drawRows_spec cx ry sprite hl s.fb).2]

/-- The same sprite at the same place inverts each of its pixels back (44_display.md R206). -/
theorem State.draw_draw_fb {u : State} (hu : u.fb = (s.draw cx ry sprite).fb) :
    (u.draw cx ry sprite).fb = s.fb := by
  refine fb_ext fun r c => ?_
  have first := s.draw_pixel_ne_iff cx ry hl r c
  have second := u.draw_pixel_ne_iff cx ry hl r c
  rw [hu] at second
  by_cases hc : SpriteCovers cx ry sprite r c
  · rw [Bool.eq_not.2 (second.2 hc), Bool.eq_not.2 (first.2 hc), Bool.not_not]
  · exact (not_not.1 (mt second.1 hc)).trans (not_not.1 (mt first.1 hc))

end

/-! The instruction -/

/-- A draw of no rows meets no error in any state (44_display.md R202; log 8). -/
theorem State.errorOf_drw_zero (x y : Reg) : s.errorOf (.drw x y 0) = none := by
  simp [errorOf, conditionOf, ownCondition, Instr.reads, Instr.readsI, Instr.run, Instr.runRead]

theorem exec_drw_of_readable {x y : Reg} {n : Nibble} (h : n ≠ 0 → s.CanRead [x, y] true)
    (hrun : s.RunFits n.toNat) (hbytes : s.CanReadBytes s.I.toNat n.toNat) :
    exec (.drw x y n) s = .next (s.completed (.drw x y n)) :=
  exec_of_run (i := .drw x y n) ((s.canRead_drawReads x y n).2 h) hrun hbytes rfl

/-- The frame of a draw of no rows: no pixel. -/
theorem frame_draw_nil (cx ry : Byte) :
    Frame s (s.draw cx ry []).continued (if s.cfg.drawSetsVF then [vf] else []) 0 0 [.events, .signal] := by
  rw [State.draw_nil]
  split
  · exact ((frame_writeV s vf 0).comp (frame_emit _ _)).comp (frame_continued _)
  · exact (frame_emit s _).comp (frame_continued _)

end Sys2Proof.Machine

namespace Sys2Proof.Proofs

open Sys2Proof.Laws Sys2Proof.Machine

/-- Settles O52: a draw that may read its operands and bytes completes with the pixels and the flag of the
draw engine, whose sprite has at most 15 rows. -/
theorem drawXorsTheSprite : Obligations.DrawXorsTheSprite := by
  unfold Obligations.DrawXorsTheSprite
  refine fun x y n => ⟨decodeWord_encode (.drw x y n), fun s h hrun hbytes => ?_⟩
  have hl := s.loadBytes_nibble_length s.I.toNat n
  refine ⟨_, exec_drw_of_readable s h hrun hbytes, s.draw_pixel_ne_iff _ _ hl, s.draw_events .., rfl,
    fun hvf => ?_, frame_completed_of_no_store s rfl (List.Subset.refl _) (by simp [partsOf])⟩
  by_cases hit : ∃ r c, SpriteCovers (s.readV x) (s.readV y) (s.loadBytes s.I.toNat n.toNat) r c ∧
      pixel s.fb r c = true
  · exact .inl ⟨(s.draw_vf_eq_one_iff _ _ hl hvf).2 hit, hit⟩
  · exact .inr ⟨(s.draw_vf_eq_zero_iff _ _ hl hvf).2 hit, hit⟩

/-- Settles O53: the second draw inverts the pixels the first one inverted, and finds a covered pixel on
exactly where the first one found it off. -/
theorem drawTwiceRestores : Obligations.DrawTwiceRestores := by
  unfold Obligations.DrawTwiceRestores
  intro x y n s t u hs hexec hu hfb hx hy hI hbytes
  have hl := s.loadBytes_nibble_length s.I.toNat n
  rw [exec_of_noError s ((s.errorOf_eq_none_iff _).2 hs)] at hexec
  cases hexec
  have same : u.completed (.drw x y n) =
      (u.draw (s.readV x) (s.readV y) (s.loadBytes s.I.toNat n.toNat)).continued := by
    rw [State.completed, hx, hy, hI, State.loadBytes_congr hbytes]
  rw [exec_of_noError u ((u.errorOf_eq_none_iff _).2 hu), same]
  refine ⟨_, rfl, s.draw_draw_fb _ _ hl hfb, fun hvf => ?_⟩
  refine (u.draw_vf_eq_one_iff _ _ hl hvf).trans
    (exists_congr fun r => exists_congr fun c => and_congr_right fun hc => ?_)
  have inverted : pixel u.fb r c = !pixel s.fb r c :=
    hfb ▸ Bool.eq_not.2 ((s.draw_pixel_ne_iff _ _ hl r c).2 hc)
  rw [inverted, Bool.not_eq_true']

/-- Settles O57: no row means no operand, no run, no byte and an empty sprite. -/
theorem drawOfNoRowsRenders : Obligations.DrawOfNoRowsRenders := by
  unfold Obligations.DrawOfNoRowsRenders
  intro x y s
  have none_met := s.errorOf_drw_zero x y
  refine ⟨(s.errorOf_eq_none_iff _).1 none_met, _, exec_of_noError s none_met, s.draw_nil_events _ _, rfl,
    fun hvf => ?_, frame_draw_nil s _ _⟩
  exact s.draw_readV_vf hvf _ _ []

end Sys2Proof.Proofs
end

section
/-! PROOF. The timer instructions, Fx07, Fx15 and Fx18 (45_timers_keys.md section 2). -/

namespace Sys2Proof.Machine

variable (s : State)

theorem State.setST_ST (v : Byte) : (s.setST v).ST = v := by
  unfold setST
  split <;> rfl

/-- A zero set of a running sound timer stops the tone (45_timers_keys.md R224). -/
theorem State.setST_of_running {v : Byte} (hv : v = 0) (hST : s.ST ≠ 0) :
    s.setST v = { s with ST := v }.stopTone :=
  if_pos ⟨hv, hST⟩

end Sys2Proof.Machine

namespace Sys2Proof.Proofs

open Sys2Proof.Laws Sys2Proof.Machine

/-- Settles O54: Fx07 is a register write; Fx15 and Fx18 are timer sets, and only a zero set of a running
sound timer goes on to stop the tone. -/
theorem timerInstructions : Obligations.TimerInstructions := by
  unfold Obligations.TimerInstructions
  refine fun x => ⟨⟨decodeWord_encode (.ldVxDT x), fun s => ?_⟩,
    ⟨decodeWord_encode (.ldDTVx x), fun s h => ?_⟩, decodeWord_encode (.ldSTVx x), fun s h => ?_⟩
  · exact result_of_writeV (i := .ldVxDT x) (s := s) rfl
  · exact ⟨_, exec_of_canRead (i := .ldDTVx x) s h rfl rfl rfl, rfl, congrArg some (ite_not ..),
      (frame_withDT s _).comp (frame_returning _ _)⟩
  · refine ⟨_, exec_of_canRead (i := .ldSTVx x) s h rfl rfl rfl, s.setST_ST _, congrArg some (ite_not ..),
      fun hv hST => ?_, fun silent => ?_⟩
    · have stopped := s.setST_of_running hv hST
      exact ⟨congrArg State.toneOn stopped, congrArg State.events stopped,
        frame_completed_of_no_store s rfl (List.Subset.refl _) (by simp [partsOf])⟩
    · have hs : ¬ (s.readV x = 0 ∧ s.ST ≠ 0) := fun ⟨hv, hST⟩ => silent.elim (· hv) hST
      exact (frame_setST_of_silent s hs).comp (frame_returning _ _)

end Sys2Proof.Proofs
end

section
/-! PROOF. One step, said once for each mode, and the fetch (40_cycle.md sections 1 and 3, 60_exceptions.md
section 2). -/

namespace Sys2Proof.Laws

/-! Two bytes decode as their word -/

theorem decode_pair (hi lo : Byte) : decode [hi, lo] = (decodeWord (wordOf hi lo)).map (·, []) := by
  cases h : decodeWord (wordOf hi lo) <;> simp only [decode, h, Except.map]

theorem decodeWord_of_decode_pair_ok {hi lo : Byte} {i : Instr} (h : decode [hi, lo] = .ok (i, [])) :
    decodeWord (wordOf hi lo) = .ok i := by
  rw [decode_pair] at h
  cases hd : decodeWord (wordOf hi lo) <;> rw [hd] at h <;> cases h
  rfl

theorem decodeWord_of_decode_pair_error {hi lo : Byte} {r : Reject} (h : decode [hi, lo] = .error r) :
    decodeWord (wordOf hi lo) = .error r := by
  rw [decode_pair] at h
  cases hd : decodeWord (wordOf hi lo) <;> rw [hd] at h <;> cases h
  rfl

end Sys2Proof.Laws

namespace Sys2Proof.Machine

variable (s : State)

/-! The fetch -/

theorem State.fetch_of_outside (h : 0xFFE < s.pc.toNat) : s.fetch = .error .fetchOutOfRange := if_pos h

theorem State.fetch_of_readable (h : s.pc.toNat ≤ 0xFFE) (hb : s.CanReadBytes s.pc.toNat 2) :
    s.fetch = .ok (wordOf (s.byte s.pc.toNat) (s.byte (s.pc.toNat + 1))) := by
  rw [fetch, if_neg (Nat.not_lt.2 h), if_pos ((s.bytesReadable_iff _ _).2 hb)]

theorem State.fetch_of_unwritten (h : s.pc.toNat ≤ 0xFFE) (hb : ¬ s.CanReadBytes s.pc.toNat 2) :
    s.fetch = .error .unwrittenRead := by
  rw [fetch, if_neg (Nat.not_lt.2 h), if_neg (mt (s.bytesReadable_iff _ _).1 hb)]

/-- A word is fetched only where both its bytes lie in memory (40_cycle.md R102). -/
theorem State.pc_le_of_fetch {w : Word} (h : s.fetch = .ok w) : s.pc.toNat ≤ 0xFFE := by
  by_contra hpc
  rw [s.fetch_of_outside (by omega)] at h
  cases h

/-! The state an instruction executes on -/

/-- The state the executor runs on, after a fetch of `w`: the step's own parts empty, the word latched, and
`pc` at A + 2 (R101, R103). -/
def State.entered (s : State) (w : Word) : State := s.beginStep.enterExecute w

@[simp] theorem State.entered_pc (w : Word) : (s.entered w).pc = s.pc + 2 := rfl

@[simp] theorem State.entered_fetched (w : Word) : (s.entered w).fetched = some w := rfl

@[simp] theorem State.entered_signal (w : Word) : (s.entered w).signal = none := rfl

@[simp] theorem State.entered_events (w : Word) : (s.entered w).events = [] := rfl

@[simp] theorem State.entered_mode (w : Word) : (s.entered w).mode = s.mode := rfl

@[simp] theorem State.entered_port (w : Word) : (s.entered w).port = s.port := rfl

@[simp] theorem State.entered_instrAddr (w : Word) : (s.entered w).instrAddr = s.pc :=
  BitVec.add_sub_cancel s.pc 2

theorem State.errorOf_entered (w : Word) (i : Instr) : (s.entered w).errorOf i = s.errorOf i := rfl

theorem frame_entered (w : Word) : Frame s (s.entered w) [] 0 0 [.pc, .fetched, .signal, .events] := by
  constructor <;> simp [State.entered]

/-! The step, mode by mode -/

section
variable {s}

theorem step_of_halted (h : s.mode = .halted) : step s = .next s.beginStep.timerUpdate.endStep := by
  simp [step, modeStep, h, afterNext, State.haltedStep]

theorem step_of_awaitingKey {x : Reg} (h : s.mode = .awaitingKey x) :
    step s = .next (s.beginStep.awaitStep x).endStep := by
  simp [step, modeStep, h, afterNext]

theorem step_of_faulted {r : FaultRecord} (h : s.mode = .faulted r) : step s = .fault (.noStep r) := by
  simp [step, modeStep, h, afterNext]

theorem step_of_fetch_error (h : s.mode = .running) {c : ErrorCode} (hf : s.fetch = .error c) :
    step s = .next (s.beginStep.raiseAt c s.pc none).endStep := by
  have hf : s.beginStep.fetch = .error c := hf
  simp [step, modeStep, h, runningStep, hf, afterNext]

theorem step_of_fetch_ok (h : s.mode = .running) {w : Word} (hf : s.fetch = .ok w) :
    step s = afterNext State.endStep (afterNext State.finishCycle (executeWord w (s.entered w))) := by
  have hf : s.beginStep.fetch = .ok w := hf
  simp [step, modeStep, h, runningStep, hf, State.entered]

/-- A step whose word executes to `u`: the rest of the cycle, then the end of the step. -/
theorem step_of_executeWord (h : s.mode = .running) {w : Word} (hf : s.fetch = .ok w) {u : State}
    (hu : executeWord w (s.entered w) = .next u) : step s = .next u.finishCycle.endStep := by
  rw [step_of_fetch_ok h hf, hu]; rfl

theorem step_of_exec (h : s.mode = .running) {w : Word} (hf : s.fetch = .ok w) {i : Instr}
    (hd : decodeWord w = .ok i) {u : State} (hu : exec i (s.entered w) = .next u) :
    step s = .next u.finishCycle.endStep :=
  step_of_executeWord h hf ((executeWord_of_ok hd _).trans hu)

/-- What an executed word can answer: an error raised, an instruction completed, or the no-op of an
unrecognized word. -/
theorem executeWord_cases {w : Word} {t : State} (h : executeWord w s = .next t) :
    (∃ i c, s.errorOf i = some c ∧ t = s.raise c) ∨
    (∃ i, s.errorOf i = none ∧ t = s.completed i) ∨ t = s.unrecognized w := by
  cases hd : decodeWord w with
  | error r =>
    rw [executeWord_of_error hd] at h
    cases h
    exact .inr (.inr rfl)
  | ok i =>
    rw [executeWord_of_ok hd] at h
    rcases exec_cases h with ⟨c, hc, rfl⟩ | ⟨hn, rfl⟩
    · exact .inl ⟨i, c, hc, rfl⟩
    · exact .inr (.inl ⟨i, hn, rfl⟩)

/-- Executing a word goes on to a next state, an error too (R252). -/
theorem exists_executeWord (w : Word) (s : State) : ∃ t, executeWord w s = .next t := by
  cases hd : decodeWord w with
  | error r => exact ⟨_, executeWord_of_error hd s⟩
  | ok i => exact ⟨_, (executeWord_of_ok hd s).trans (exec_eq s i)⟩

/-- What a step can do: the one inversion of the step function. -/
theorem step_cases {t : State} (h : step s = .next t) :
    (s.mode = .halted ∧ t = s.beginStep.timerUpdate.endStep) ∨
    (∃ x, s.mode = .awaitingKey x ∧ t = (s.beginStep.awaitStep x).endStep) ∨
    (∃ c, s.mode = .running ∧ s.fetch = .error c ∧ t = (s.beginStep.raiseAt c s.pc none).endStep) ∨
    (∃ w u, s.mode = .running ∧ s.fetch = .ok w ∧ executeWord w (s.entered w) = .next u ∧
      t = u.finishCycle.endStep) := by
  cases hm : s.mode with
  | halted =>
    rw [step_of_halted hm] at h
    cases h
    exact .inl ⟨rfl, rfl⟩
  | awaitingKey x =>
    rw [step_of_awaitingKey hm] at h
    cases h
    exact .inr (.inl ⟨x, rfl, rfl⟩)
  | faulted r =>
    rw [step_of_faulted hm] at h
    cases h
  | running =>
    cases hf : s.fetch with
    | error c =>
      rw [step_of_fetch_error hm hf] at h
      cases h
      exact .inr (.inr (.inl ⟨c, rfl, rfl, rfl⟩))
    | ok w =>
      obtain ⟨u, hu⟩ := exists_executeWord w (s.entered w)
      rw [step_of_executeWord hm hf hu] at h
      cases h
      exact .inr (.inr (.inr ⟨w, u, rfl, rfl, hu, rfl⟩))

end

/-! The end of the step -/

@[simp] theorem State.endStep_mode : s.endStep.mode = s.mode := (frame_endStep s).mode (by simp [stepParts])

@[simp] theorem State.endStep_pc : s.endStep.pc = s.pc := (frame_endStep s).pc (by simp [stepParts])

@[simp] theorem State.endStep_events : s.endStep.events = s.events := by
  obtain ⟨p, r, n, h⟩ := s.endStep_eq
  rw [h]

@[simp] theorem State.endStep_readV (r : Reg) : s.endStep.readV r = s.readV r :=
  ((frame_endStep s).V r (by simp)).1

/-- Between the start of a step and its end, the step's own parts are free. -/
theorem frame_step {u : State} {vs : List Reg} {ps : List Part} (h : Frame s.beginStep u vs 0 0 ps)
    {ps' : List Part} (hp : ps ⊆ ps' ++ stepParts) : Frame s u.endStep vs 0 0 (ps' ++ stepParts) :=
  (((frame_beginStep s).comp h).comp (frame_endStep u)).mono (by simp) (.inl rfl)
    (List.append_subset.2
      ⟨List.append_subset.2 ⟨List.subset_append_right _ _, hp⟩, List.subset_append_right _ _⟩)

theorem frame_raiseAt (c : ErrorCode) (a : Word) (w : Option Word) :
    Frame s (s.raiseAt c a w) [] 0 0 [.mode, .events] := by
  constructor <;> simp

end Sys2Proof.Machine

namespace Sys2Proof.Proofs

open Sys2Proof.Laws Sys2Proof.Machine

/-- Settles O5: the witness is the state after the fetch advance. -/
theorem stepRunsDecodedInstruction : Obligations.StepRunsDecodedInstruction := by
  unfold Obligations.StepRunsDecodedInstruction
  intro s hm hpc hb
  have hf := s.fetch_of_readable hpc hb
  refine ⟨s.entered _, rfl, rfl, rfl, rfl, frame_entered s _, fun i hi => ?_, fun r hr => ?_⟩
  · rw [step_of_fetch_ok hm hf, executeWord_of_ok (decodeWord_of_decode_pair_ok hi)]
  · exact step_of_executeWord hm hf (executeWord_of_error (decodeWord_of_decode_pair_error hr) _)

/-- Settles O6: the fetched word is the two bytes, the first one the high byte. -/
theorem fetchReadsBigEndianWord : Obligations.FetchReadsBigEndianWord := by
  unfold Obligations.FetchReadsBigEndianWord
  exact fun s hpc hb => ⟨_, s.fetch_of_readable hpc hb, wordOf_toNat _ _⟩

/-- Settles O7: the range is checked before the bytes, and a fetch error is raised at A before `pc` moves. -/
theorem fetchErrorEntersFaulted : Obligations.FetchErrorEntersFaulted := by
  unfold Obligations.FetchErrorEntersFaulted
  intro s hm
  have raised (c : ErrorCode) (hf : s.fetch = .error c) : ∃ t, step s = .next t ∧
      t.mode = .faulted ⟨c, s.pc, none⟩ ∧ t.events = [.fault ⟨c, s.pc, none⟩] ∧
      Frame s t [] 0 0 (.mode :: stepParts) :=
    ⟨_, step_of_fetch_error hm hf, by simp, by simp,
      frame_step s (ps' := [.mode]) (frame_raiseAt _ _ _ _) (by simp [stepParts])⟩
  exact ⟨fun h => raised _ (s.fetch_of_outside h), fun h hb => raised _ (s.fetch_of_unwritten h hb)⟩

/-- Settles O9: the record is written out in the definition of the raise. -/
theorem raiseWritesOnlyTheRecord : Obligations.RaiseWritesOnlyTheRecord := by
  unfold Obligations.RaiseWritesOnlyTheRecord
  exact fun s c => ⟨rfl, rfl, frame_raise s c⟩

/-- Settles O11: each mode's equation of the step. -/
theorem onlyFaultedHasNoStep : Obligations.OnlyFaultedHasNoStep := by
  unfold Obligations.OnlyFaultedHasNoStep
  refine fun s => ⟨fun r => step_of_faulted, fun h => ?_⟩
  cases hm : s.mode with
  | halted => exact ⟨_, step_of_halted hm⟩
  | awaitingKey x => exact ⟨_, step_of_awaitingKey hm⟩
  | faulted r => exact absurd hm (h r)
  | running =>
    cases hf : s.fetch with
    | error c => exact ⟨_, step_of_fetch_error hm hf⟩
    | ok w =>
      obtain ⟨u, hu⟩ := exists_executeWord w (s.entered w)
      exact ⟨_, step_of_executeWord hm hf hu⟩

/-- Settles O16: the step of mode Halted is the timer update between the start and the end of the step. -/
theorem haltedStepOnlyUpdatesTimers : Obligations.HaltedStepOnlyUpdatesTimers := by
  unfold Obligations.HaltedStepOnlyUpdatesTimers
  exact fun s hm => ⟨step_of_halted hm, frame_step s (frame_timerUpdate _) (by simp [timerParts, stepParts])⟩

end Sys2Proof.Proofs
end

section
/-! PROOF. The rest of a cycle: signal handling, the quit poll, the timer update, the key wait, and the end
of a step that meets an error (40_cycle.md sections 1 to 3, 45_timers_keys.md sections 3 and 4). -/

namespace Sys2Proof.Machine

variable (s : State)

/-! Signal handling (40_cycle.md R107) -/

theorem frame_withMode (m : Mode) : Frame s { s with mode := m } [] 0 0 [.mode] := by
  constructor
  case V => exact fun r _ => ⟨rfl, rfl⟩
  case mem => exact fun a _ => ⟨rfl, rfl⟩
  all_goals simp

theorem frame_startDelay : Frame s s.startDelay [] 0 0 [.clock, .anchorDT] := by constructor <;> simp

theorem frame_startSound : Frame s s.startSound [] 0 0 [.clock, .anchorST, .toneOn, .events] := by
  constructor <;> simp

/-- A logical key is down as the host says. -/
theorem State.pressed_of_key {k : Byte} (h : k.toNat < 16) : s.pressed k = s.port.pressed[k.toNat] := dif_pos h

/-- A value that is no key is never pressed (45_timers_keys.md R225). -/
theorem State.pressed_of_no_key {k : Byte} (h : 16 ≤ k.toNat) : s.pressed k = false := dif_neg (Nat.not_lt.2 h)

theorem State.pressed_iff (k : Byte) :
    s.pressed k = true ↔ ∃ h : k.toNat < 16, s.port.pressed[k.toNat] = true := by
  by_cases h : k.toNat < 16
  · simp [s.pressed_of_key h, h]
  · simp [s.pressed_of_no_key (not_lt.1 h), h]

/-- The key skips are register skips on the host's answer. -/
theorem State.handle_skipIfPressed (k : Byte) : s.handle (.skipIfPressed k) = s.skipIf (s.pressed k) := rfl

theorem State.handle_skipIfNotPressed (k : Byte) :
    s.handle (.skipIfNotPressed k) = s.skipIf (!s.pressed k) := by
  cases h : s.pressed k <;> simp [handle, skipIf, h]

/-- What a handled signal may change. -/
theorem frame_handle (sig : Signal) :
    Frame s (s.handle sig) [] 0 0 [.mode, .pc, .clock, .anchorDT, .anchorST, .toneOn, .events] := by
  cases sig with
  | cont => exact frame_refl s _ _ _ _
  | halt => exact (frame_withMode s _).mono (by simp) (.inl rfl) (by simp)
  | timerStarted t =>
    cases t with
    | delay => exact (frame_startDelay s).mono (by simp) (.inl rfl) (by simp)
    | sound => exact (frame_startSound s).mono (by simp) (.inl rfl) (by simp)
  | awaitKey x => exact (frame_withMode s _).mono (by simp) (.inl rfl) (by simp)
  | skipIfPressed k => exact (frame_skipIf s _).mono (by simp) (.inl rfl) (by simp)
  | skipIfNotPressed k =>
    rw [State.handle_skipIfNotPressed]
    exact (frame_skipIf s _).mono (by simp) (.inl rfl) (by simp)

theorem State.handle_port (sig : Signal) : (s.handle sig).port = s.port :=
  ((frame_handle s sig).host (by simp)).1

/-- The mode a signal leads to, from the mode before it (R107). -/
def Signal.modeAfter (m : Mode) : Signal → Mode
  | .halt => .halted
  | .awaitKey x => .awaitingKey x
  | _ => m

theorem State.handle_mode (sig : Signal) : (s.handle sig).mode = sig.modeAfter s.mode := by
  cases sig with
  | timerStarted t => cases t <;> rfl
  | skipIfPressed k => exact (frame_skipIf s _).mode (by simp)
  | skipIfNotPressed k => rw [handle_skipIfNotPressed]; exact (frame_skipIf s _).mode (by simp)
  | _ => rfl

/-- Only a Halt leads from Running to Halted. -/
theorem State.handle_mode_ne_halted {sig : Signal} (hm : s.mode = .running) (h : sig ≠ .halt) :
    (s.handle sig).mode ≠ .halted := by
  rw [handle_mode, hm]
  cases sig with
  | halt => exact absurd rfl h
  | _ => simp [Signal.modeAfter]

/-! The end of the cycle -/

theorem host_notin_partsOf (i : Instr) : .host ∉ partsOf i := by cases i <;> simp [partsOf]

/-- An executed word raised an error, or it returned a signal and left the mode and the host's answers
alone. -/
theorem executeWord_result {s t : State} {w : Word} (h : executeWord w s = .next t) :
    (∃ c, t = s.raise c) ∨ ∃ sig, t.signal = some sig ∧ t.mode = s.mode ∧ t.port = s.port := by
  rcases executeWord_cases h with ⟨i, c, _, rfl⟩ | ⟨i, _, rfl⟩ | rfl
  · exact .inl ⟨c, rfl⟩
  · exact .inr ⟨_, s.completed_signal i, s.completed_mode i,
      ((frame_completed s i).host (host_notin_partsOf i)).1⟩
  · exact .inr ⟨.cont, rfl, rfl, rfl⟩

@[simp] theorem State.timerUpdate_mode : s.timerUpdate.mode = s.mode :=
  (frame_timerUpdate s).mode (by simp [timerParts])

@[simp] theorem State.timerUpdate_pc : s.timerUpdate.pc = s.pc :=
  (frame_timerUpdate s).pc (by simp [timerParts])

section
variable {s}

theorem State.finishCycle_of_error (h : s.signal = none) : s.finishCycle = s := by simp only [finishCycle, h]

theorem State.finishCycle_of_halt (h : s.signal = some .halt) : s.finishCycle = { s with mode := .halted } := by
  simp only [finishCycle, h, handle, if_true]

theorem State.finishCycle_of_signal {sig : Signal} (hm : s.mode = .running) (h : s.signal = some sig)
    (hs : sig ≠ .halt) : s.finishCycle = (s.handle sig).pollQuit := by
  simp only [finishCycle, h, if_neg (s.handle_mode_ne_halted hm hs)]

theorem State.pollQuit_of_quit (h : s.port.quit = true) : s.pollQuit = { s with mode := .halted } := if_pos h

theorem State.pollQuit_of_no_quit (h : s.port.quit = false) : s.pollQuit = s.timerUpdate := by
  simp [pollQuit, h]

end

theorem State.pollQuit_mode : s.pollQuit.mode = if s.port.quit then .halted else s.mode := by
  unfold pollQuit
  split <;> simp

/-- The mode after a cycle whose executor returned a signal. -/
theorem State.finishCycle_mode {s : State} {sig : Signal} (hm : s.mode = .running) (h : s.signal = some sig) :
    s.finishCycle.mode =
      if sig = .halt then .halted else if s.port.quit then .halted else sig.modeAfter .running := by
  split
  case isTrue hs => rw [finishCycle_of_halt (hs ▸ h)]
  case isFalse hs => rw [finishCycle_of_signal hm h hs, pollQuit_mode, handle_port, handle_mode, hm]

theorem frame_pollQuit : Frame s s.pollQuit [] 0 0 (.mode :: .events :: timerParts) := by
  unfold State.pollQuit
  split
  · exact (frame_withMode s _).mono (by simp) (.inl rfl) (by simp)
  · exact (frame_timerUpdate s).mono (by simp) (.inl rfl) (List.subset_cons_self _ _)

theorem State.pollQuit_pc : s.pollQuit.pc = s.pc := (frame_pollQuit s).pc (by simp [timerParts])

/-- A change of `pc` back to its value is no change of it. -/
theorem Frame.of_pc_eq {s t : State} {vs : List Reg} {lo len : Nat} {ps : List Part}
    (h : Frame s t vs lo len (.pc :: ps)) (hpc : t.pc = s.pc) : Frame s t vs lo len ps where
  V := h.V
  mem := h.mem
  cfg := h.cfg
  I hi := h.I (by simpa using hi)
  pc _ := hpc
  sp hi := h.sp (by simpa using hi)
  stack hi := h.stack (by simpa using hi)
  DT hi := h.DT (by simpa using hi)
  ST hi := h.ST (by simpa using hi)
  anchorDT hi := h.anchorDT (by simpa using hi)
  anchorST hi := h.anchorST (by simpa using hi)
  toneOn hi := h.toneOn (by simpa using hi)
  mode hi := h.mode (by simpa using hi)
  fb hi := h.fb (by simpa using hi)
  fetched hi := h.fetched (by simpa using hi)
  signal hi := h.signal (by simpa using hi)
  events hi := h.events (by simpa using hi)
  clock hi := h.clock (by simpa using hi)
  host hi := h.host (by simpa using hi)

/-- A step whose signal is handled as a register skip moves `pc` as that skip does, whatever the quit poll
and the timer update then do. -/
theorem step_of_skip_signal {s u : State} {w : Word} {i : Instr} {sig : Signal} {p : Bool}
    (hm : s.mode = .running) (hf : s.fetch = .ok w) (hd : decodeWord w = .ok i)
    (hu : exec i (s.entered w) = .next u) (humode : u.mode = .running)
    (hsig : u.signal = some sig) (hs : sig ≠ .halt) (hskip : u.handle sig = u.skipIf p) :
    ∃ t, step s = .next t ∧ t.pc = if p then u.pc + 2 else u.pc := by
  refine ⟨_, step_of_exec hm hf hd hu, ?_⟩
  rw [State.endStep_pc, State.finishCycle_of_signal humode hsig hs, State.pollQuit_pc, hskip, State.skipIf_pc]

/-! The key wait -/

theorem exec_ldVxK (x : Reg) : exec (.ldVxK x) s = .next (s.completed (.ldVxK x)) := rfl

section
variable {s} {x : Reg}

theorem State.awaitStep_of_quit (h : s.port.quit = true) : s.awaitStep x = { s with mode := .halted } :=
  if_pos h

theorem State.awaitStep_of_no_key (h : s.port.quit = false) (hk : s.port.keyDown = none) :
    s.awaitStep x = s := by
  simp [awaitStep, h, hk]

theorem State.awaitStep_of_key {k : Key} (h : s.port.quit = false) (hk : s.port.keyDown = some k) :
    s.awaitStep x = { (s.writeV x (k.setWidth 8)).advance with mode := .running } := by
  simp [awaitStep, h, hk]

end

/-- A wait for a key emits nothing (40_cycle.md R111). -/
@[simp] theorem State.awaitStep_events (x : Reg) : (s.awaitStep x).events = s.events := by
  unfold awaitStep
  split
  · rfl
  · split <;> rfl

/-- The mode after a wait: a quit request goes before a key-down event. -/
theorem State.awaitStep_mode (x : Reg) (hm : s.mode = .awaitingKey x) : (s.awaitStep x).mode =
    if s.port.quit then .halted else if s.port.keyDown.isSome then .running else .awaitingKey x := by
  unfold awaitStep
  split
  · rfl
  · cases s.port.keyDown <;> simp [hm]

/-! The timer update (45_timers_keys.md R231, R232) -/

theorem decayed_zero (c : Byte) : decayed c 0 = c :=
  BitVec.eq_of_toNat_eq (decayed_toNat c 0)

theorem decayed_eq_zero_iff (c : Byte) (k : Nat) : decayed c k = 0 ↔ c.toNat ≤ k := by
  rw [← BitVec.toNat_inj, decayed_toNat]
  exact Nat.sub_eq_zero_iff_le

/-- Whole ticks since the anchor of the delay timer, at its read of the host time. -/
def State.delayTicks (s : State) : Nat := s.ticksSince s.anchorDT (s.clock + s.port.delayElapsed)

/-- Whole ticks since the anchor of the sound timer, at its read of the host time, the later of the two. -/
def State.soundTicks (s : State) : Nat :=
  s.ticksSince s.anchorST (s.clock + s.port.delayElapsed + s.port.soundElapsed)

/-- The timer update stops the tone: the sound timer goes from non-zero to 0. -/
def State.ToneStops (s : State) : Prop := s.ST ≠ 0 ∧ s.ST.toNat ≤ s.soundTicks

/-- The counters, anchors and clock after a timer update. -/
def State.decay (s : State) : State :=
  { s with
    DT := decayed s.DT s.delayTicks
    anchorDT := if 0 < s.delayTicks then s.clock + s.port.delayElapsed else s.anchorDT
    ST := decayed s.ST s.soundTicks
    anchorST := if 0 < s.soundTicks then s.clock + s.port.delayElapsed + s.port.soundElapsed else s.anchorST
    clock := s.clock + s.port.delayElapsed + s.port.soundElapsed }

theorem State.updateDelay_eq_decay : s.updateDelay =
    { s with
      DT := decayed s.DT s.delayTicks
      anchorDT := if 0 < s.delayTicks then s.clock + s.port.delayElapsed else s.anchorDT
      clock := s.clock + s.port.delayElapsed } := by
  by_cases h : 0 < s.delayTicks
  · rw [if_pos h]
    exact if_pos h
  · rw [if_neg h, Nat.eq_zero_of_not_pos h, decayed_zero]
    exact if_neg h

theorem State.timerUpdate_of_toneStops (h : s.ToneStops) : s.timerUpdate = s.decay.stopTone := by
  obtain ⟨hST, hle⟩ := h
  have hpos : 0 < s.soundTicks :=
    Nat.lt_of_lt_of_le (Nat.pos_of_ne_zero fun e => hST (BitVec.eq_of_toNat_eq e)) hle
  rw [timerUpdate, updateDelay_eq_decay, decay, if_pos hpos]
  exact (if_pos hpos).trans (if_pos ⟨hST, (decayed_eq_zero_iff _ _).2 hle⟩)

theorem State.timerUpdate_of_not_toneStops (h : ¬ s.ToneStops) : s.timerUpdate = s.decay := by
  rw [timerUpdate, updateDelay_eq_decay, decay]
  by_cases hpos : 0 < s.soundTicks
  · rw [if_pos hpos]
    exact (if_pos hpos).trans (if_neg fun ⟨hST, hd⟩ => h ⟨hST, (decayed_eq_zero_iff _ _).1 hd⟩)
  · rw [if_neg hpos, Nat.eq_zero_of_not_pos hpos, decayed_zero]
    exact if_neg hpos

end Sys2Proof.Machine

namespace Sys2Proof.Proofs

open Sys2Proof.Laws Sys2Proof.Machine

/-- Settles O10: the fetch advance touches nothing that the error check looks at, and a raised error leaves
no signal, so nothing of the cycle follows it. -/
theorem errorEndsTheStep : Obligations.ErrorEndsTheStep := by
  unfold Obligations.ErrorEndsTheStep
  intro s w i c hm hf hd herr
  have raised : exec i (s.entered w) = .next ((s.entered w).raise c) :=
    exec_of_error _ ((s.errorOf_entered w i).trans ((s.errorOf_eq_some_iff i c).2 herr))
  have ended : ((s.entered w).raise c).finishCycle = (s.entered w).raise c := State.finishCycle_of_error rfl
  refine ⟨_, step_of_exec hm hf hd raised, ?_⟩
  rw [ended]
  refine ⟨by simp, by simp, by simp, ?_⟩
  exact (((frame_entered s w).comp (frame_raise _ c)).comp (frame_endStep _)).mono (by simp) (.inl rfl)
    (by simp [stepParts])

/-- Settles O12: each signal's branch of the handler. -/
theorem signalsAreHandled : Obligations.SignalsAreHandled := by
  unfold Obligations.SignalsAreHandled
  refine fun s => ⟨rfl, ⟨rfl, frame_withMode s _⟩, ⟨rfl, rfl, frame_startDelay s⟩,
    ⟨rfl, rfl, rfl, rfl, frame_startSound s⟩, fun x => ⟨rfl, frame_withMode s _⟩, fun k h => ?_, fun k h => ?_,
    fun k => ?_⟩
  · rw [s.handle_skipIfPressed, s.handle_skipIfNotPressed, s.pressed_of_key h]
    cases s.port.pressed[k.toNat] <;> exact ⟨rfl, rfl⟩
  · rw [s.handle_skipIfPressed, s.handle_skipIfNotPressed, s.pressed_of_no_key h]
    exact ⟨rfl, rfl⟩
  · rw [s.handle_skipIfNotPressed]
    exact ⟨frame_skipIf s _, frame_skipIf s _⟩

/-- Settles O13: only a Halt leads to mode Halted before the quit poll, and no signal changes the host's
answers. -/
theorem cycleEndsInOrder : Obligations.CycleEndsInOrder := by
  unfold Obligations.CycleEndsInOrder
  refine fun s sig hm hsig => ⟨fun h => State.finishCycle_of_halt (h ▸ hsig), fun h hq => ?_, fun h hq => ?_⟩
  · rw [State.finishCycle_of_signal hm hsig h, State.pollQuit_of_quit (s.handle_port sig ▸ hq)]
  · rw [State.finishCycle_of_signal hm hsig h, State.pollQuit_of_no_quit (s.handle_port sig ▸ hq)]

/-- Settles O15: each of the three branches of the key wait. -/
theorem awaitingKeyStep : Obligations.AwaitingKeyStep := by
  unfold Obligations.AwaitingKeyStep
  intro s x hm
  refine ⟨_, step_of_awaitingKey hm, by simp, fun hq => ?_, fun hq hk => ?_, fun k hq hk => ?_⟩
  · rw [State.awaitStep_of_quit (s := s.beginStep) hq]
    exact ⟨by simp, frame_step s (ps' := [.mode]) (frame_withMode _ _) (by simp)⟩
  · rw [State.awaitStep_of_no_key (s := s.beginStep) hq hk]
    exact frame_step s (ps' := []) (frame_refl _ _ _ _ []) (by simp)
  · rw [State.awaitStep_of_key (s := s.beginStep) hq hk]
    have value : { (s.beginStep.writeV x (k.setWidth 8)).advance with mode := .running : State }.readV x =
        k.setWidth 8 := s.beginStep.readV_writeV_same x _
    refine ⟨?_, by simp, by simp, ?_⟩
    · rw [State.endStep_readV, value]
      exact BitVec.toNat_setWidth_of_le (by decide)
    · exact frame_step s (ps' := [.mode, .pc])
        (((frame_writeV _ _ _).comp (frame_advance _)).comp (frame_withMode _ _)) (by simp)

/-- Settles O17: the update is the decay of both timers, with the tone stopped if the sound timer
reaches 0. -/
theorem timerUpdateDecays : Obligations.TimerUpdateDecays := by
  unfold Obligations.TimerUpdateDecays
  intro s
  have frame := frame_timerUpdate s
  by_cases h : s.ToneStops
  · rw [s.timerUpdate_of_toneStops h] at frame ⊢
    exact ⟨decayed_toNat .., rfl, decayed_toNat .., rfl, rfl, fun _ => ⟨rfl, rfl⟩, fun hn => absurd h hn, frame⟩
  · rw [s.timerUpdate_of_not_toneStops h] at frame ⊢
    exact ⟨decayed_toNat .., rfl, decayed_toNat .., rfl, rfl, fun hs => absurd hs h, fun _ => ⟨rfl, rfl⟩, frame⟩

/-- Settles O39: the self-jump leaves `pc` at A and returns Halt, which ends the cycle. -/
theorem selfJumpHalts : Obligations.SelfJumpHalts := by
  unfold Obligations.SelfJumpHalts
  intro s nnn hm hf hpc
  have halts : ((s.entered (wordNNN 0x1 nnn)).completed (.jp nnn)).signal = some .halt := by
    rw [State.completed_signal]
    exact congrArg some (if_pos (hpc.trans (s.entered_instrAddr _).symm))
  refine ⟨_, step_of_exec hm hf (decodeWord_encode (.jp nnn)) (exec_jp _ nnn), ?_⟩
  rw [State.finishCycle_of_halt halts]
  refine ⟨State.endStep_mode _, State.endStep_events _, Frame.of_pc_eq ?_ ((State.endStep_pc _).trans hpc)⟩
  exact ((frame_entered s _).comp (frame_jumpTo _ _) |>.comp (frame_returning _ _)
    |>.comp (frame_withMode _ _) |>.comp (frame_endStep _)).mono (by simp) (.inl rfl) (by simp [stepParts])

/-- Settles O14: the mode after each kind of step; after an executed word it is that of its signal, unless a
quit is requested. -/
theorem modeTransitions : Obligations.ModeTransitions := by
  unfold Obligations.ModeTransitions
  intro s t h
  rcases step_cases h with ⟨hm, rfl⟩ | ⟨x, hm, rfl⟩ | ⟨c, hm, hf, rfl⟩ | ⟨w, u, hm, hf, hu, rfl⟩
  · simp [hm]
  · rw [hm, State.endStep_mode]
    exact s.beginStep.awaitStep_mode x hm
  · rw [hm]
    exact .inl ⟨c, hf, by simp⟩
  · rw [hm]
    refine .inr ⟨w, u, hf, hu, ?_⟩
    rw [State.endStep_mode]
    rcases executeWord_result hu with ⟨c, rfl⟩ | ⟨sig, hsig, hmode, hport⟩
    · rw [State.finishCycle_of_error rfl]
      exact ⟨c, by simp⟩
    · rw [State.finishCycle_mode (hmode.trans hm) hsig, hport, hsig]
      cases sig <;> rfl

/-- Settles O55: the skip signal carries V[x], and the cycle handles it as a register skip on the host's
answer. -/
theorem keySkips : Obligations.KeySkips := by
  unfold Obligations.KeySkips
  refine fun x => ⟨decodeWord_encode (.skp x), decodeWord_encode (.sknp x), fun s h => ⟨?_, ?_⟩,
    fun s hm h => ?_⟩
  · exact ⟨_, exec_of_canRead (i := .skp x) s h rfl rfl rfl, rfl, frame_returning s _⟩
  · exact ⟨_, exec_of_canRead (i := .sknp x) s h rfl rfl rfl, rfl, frame_returning s _⟩
  have down : s.pressed (s.readV x) = true ↔ _ := s.pressed_iff (s.readV x)
  have four : s.pc + 2 + 2 = s.pc + 4 := BitVec.add_assoc s.pc 2 2
  rw [← down]
  refine ⟨fun hf => ?_, fun hf => ?_⟩
  · obtain ⟨t, ht, hpc⟩ := step_of_skip_signal (p := s.pressed (s.readV x)) hm hf (decodeWord_encode (.skp x))
      (exec_of_canRead (i := .skp x) _ h rfl rfl rfl) hm rfl (by simp) rfl
    exact ⟨t, ht, fun hd => by rw [hpc, if_pos hd]; exact four, fun hd => by rw [hpc, if_neg hd]; rfl⟩
  · obtain ⟨t, ht, hpc⟩ := step_of_skip_signal (p := !s.pressed (s.readV x)) hm hf (decodeWord_encode (.sknp x))
      (exec_of_canRead (i := .sknp x) _ h rfl rfl rfl) hm rfl (by simp) (State.handle_skipIfNotPressed _ _)
    exact ⟨t, ht, fun hd => by rw [hpc, if_neg (by simp [hd])]; rfl,
      fun hd => by rw [hpc, if_pos (by simp [hd])]; exact four⟩

/-- Settles O56: the executor takes `pc` back to A and returns AwaitKey, after which the quit poll and the
timer update run as in any cycle. -/
theorem keyWaitBegins : Obligations.KeyWaitBegins := by
  unfold Obligations.KeyWaitBegins
  refine fun x => ⟨decodeWord_encode (.ldVxK x), fun s => ⟨_, rfl, rfl, rfl, ?_⟩, fun s hm hf => ?_⟩
  · exact (frame_jumpTo s _).comp (frame_returning _ _)
  have rewound : ((s.entered (wordXKK 0xF x 0x0A)).completed (.ldVxK x)).pc = s.pc := s.entered_instrAddr _
  have waits : ((s.entered (wordXKK 0xF x 0x0A)).completed (.ldVxK x)).finishCycle = _ :=
    State.finishCycle_of_signal (sig := .awaitKey x) hm rfl (by simp)
  refine ⟨_, step_of_exec hm hf (decodeWord_encode (.ldVxK x)) (exec_ldVxK _ x), ?_⟩
  rw [waits]
  refine ⟨by rw [State.endStep_mode, State.pollQuit_mode]; rfl, Frame.of_pc_eq ?_ ?_⟩
  · exact ((frame_entered s _).comp (frame_jumpTo _ _) |>.comp (frame_returning _ _)
      |>.comp (frame_withMode _ _) |>.comp (frame_pollQuit _) |>.comp (frame_endStep _)).mono (by simp)
      (.inl rfl) (by simp [timerParts, stepParts])
  · rw [State.endStep_pc, State.pollQuit_pc]
    exact rewound

end Sys2Proof.Proofs
end

section
/-! PROOF. The state at execution start, construction and the program load (10_state.md section 11,
70_reset_and_hazards.md section 1). -/

namespace Sys2Proof.Machine

/-- The byte of glyph `g` at offset `k` (10_state.md R40). -/
theorem glyphByte_glyph (font : Font) (g : Fin 16) (k : Fin 5) :
    glyphByte font (0x050 + 5 * g.val + k.val) = font[g.val][k.val] := by
  have hg : (0x050 + 5 * g.val + k.val - fontBase) / glyphBytes = g.val := by
    simp only [fontBase, glyphBytes]; omega
  have hk : (0x050 + 5 * g.val + k.val - fontBase) % glyphBytes = k.val := by
    simp only [fontBase, glyphBytes]; omega
  rw [glyphByte, hg, hk]
  simp

theorem inGlyphs_glyph (g : Fin 16) (k : Fin 5) : inGlyphs (0x050 + 5 * g.val + k.val) = true := by
  simp only [inGlyphs, fontBase, fontEnd, Bool.and_eq_true, decide_eq_true_eq]
  omega

theorem inGlyphs_eq_false {a : Nat} (h : a < 0x050 ∨ 0x0A0 ≤ a) : inGlyphs a = false := by
  simp only [inGlyphs, fontBase, fontEnd, Bool.and_eq_false_iff, decide_eq_false_iff_not]
  omega

section
variable (cfg : Config) (t₀ : Nat) (port : HostInputs) (script : List HostInputs)

theorem State.initial_byte (a : Nat) :
    (State.initial cfg t₀ port script).byte a = Memory.unlisted cfg.font a := rfl

theorem State.initial_byte_glyph (g : Fin 16) (k : Fin 5) :
    (State.initial cfg t₀ port script).byte (0x050 + 5 * g.val + k.val) = cfg.font[g.val][k.val] := by
  rw [initial_byte, Memory.unlisted, if_pos (inGlyphs_glyph g k), glyphByte_glyph]

theorem State.initial_byte_outside {a : Nat} (h : inGlyphs a = false) :
    (State.initial cfg t₀ port script).byte a = 0 := by
  simp [initial_byte, Memory.unlisted, h]

theorem State.initial_readV (r : Reg) : (State.initial cfg t₀ port script).readV r = 0 := by
  simp [readV, initial]

theorem State.initial_stack (j : Fin 16) : (State.initial cfg t₀ port script).stack[j.val] = 0 := by
  simp [initial]

/-- The ROM fits memory from 0x200 on (60_exceptions.md R255). -/
theorem progBase_add_le {rom : List Byte} (h : rom.length ≤ 0xE00) : progBase + rom.length ≤ memSize := by
  simp only [progBase, memSize]
  omega

theorem construct_of_fits {rom : List Byte} (h : rom.length ≤ 0xE00) :
    construct cfg t₀ port script (some (some rom)) = .ok ((State.initial cfg t₀ port script).load rom) :=
  if_pos (decide_eq_true h)

theorem construct_of_too_large {rom : List Byte} (h : 0xE00 < rom.length) :
    construct cfg t₀ port script (some (some rom)) = .error .configRomTooLarge :=
  if_neg (by simpa [romFits, romMax] using h)

/-- Execution starts in the invariant of a run. -/
theorem State.initial_inv : (State.initial cfg t₀ port script).Inv where
  mem := ⟨List.Pairwise.nil, by simp [initial]⟩
  writtenMem := ⟨List.Pairwise.nil, by simp [initial]⟩
  I := Nat.zero_le _
  pc := (by decide : (0x200 : Word).toNat ≤ 0x10FE)
  waiting := fun _ h => by cases h
  stack := fun j => by rw [initial_stack]; exact Nat.zero_le _
  bottom := initial_stack _ _ _ _ 0
  tone := by simp [initial]
  anchorDT := le_rfl
  anchorST := le_rfl
  fetched := rfl
  signal := rfl

theorem State.initial_unwrittenIsReset : (State.initial cfg t₀ port script).UnwrittenIsReset where
  V r _ := initial_readV _ _ _ _ r
  I _ := rfl
  mem _ h := initial_byte_outside _ _ _ _ (Bool.or_eq_false_iff.1 h).1

end

end Sys2Proof.Machine

namespace Sys2Proof.Proofs

open Sys2Proof.Machine

/-- Settles O24: the fields as `State.initial` writes them, and memory as its unlisted addresses read. -/
theorem resetState : Obligations.ResetState := by
  unfold Obligations.ResetState
  refine ⟨rfl, rfl, rfl, rfl, rfl, rfl, rfl, rfl, rfl, ?_, ?_, pixel_blank, ?_, fun a h => ?_, rfl, rfl⟩
  · exact State.initial_readV _ _ _ _
  · exact State.initial_stack _ _ _ _
  · exact State.initial_byte_glyph _ _ _ _
  · exact State.initial_byte_outside _ _ _ _ (inGlyphs_eq_false h)

/-- Settles O25: reset is an execution start, and every execution start meets both. -/
theorem resetMeetsInvariants : Obligations.ResetMeetsInvariants := by
  unfold Obligations.ResetMeetsInvariants
  exact ⟨State.initial_inv _ _ _ _, State.initial_unwrittenIsReset _ _ _ _⟩

/-- Settles O29: the load is a run of stores that fits, so it holds the ROM and leaves everything else
alone. -/
theorem constructionLoadsTheRom : Obligations.ConstructionLoadsTheRom := by
  unfold Obligations.ConstructionLoadsTheRom
  refine fun cfg t₀ port script => ⟨rfl, rfl, fun rom => construct_of_too_large _ _ _ _, fun rom h => ?_, rfl⟩
  exact ⟨_, construct_of_fits _ _ _ _ h,
    fun i hi => State.byte_storeBytes_inside _ _ rom i hi (progBase_add_le h),
    frame_storeBytes _ _ rom⟩

end Sys2Proof.Proofs
end

section
/-! PROOF. What every step keeps of the parameters, of host time, and of state that nothing has written
(00_scope.md section 3, 40_cycle.md section 4, 10_state.md section 11). -/

namespace Sys2Proof.Machine

/-! Parameters and host time -/

/-- The parameters of `t` are those of `s`, and its host time is not earlier. -/
def Later (s t : State) : Prop := t.cfg = s.cfg ∧ s.clock ≤ t.clock

theorem Later.trans {s t u : State} (h : Later s t) (h' : Later t u) : Later s u :=
  ⟨h'.1.trans h.1, h.2.trans h'.2⟩

theorem Frame.later {s t : State} {vs : List Reg} {lo len : Nat} {ps : List Part} (h : Frame s t vs lo len ps)
    (hc : .clock ∉ ps) : Later s t :=
  ⟨h.cfg, (h.clock hc).ge⟩

theorem clock_notin_partsOf (i : Instr) : .clock ∉ partsOf i := by cases i <;> simp [partsOf]

section
variable (s : State)

theorem later_timerUpdate : Later s s.timerUpdate := by
  obtain ⟨d, a, d', a', o, e, h⟩ := s.timerUpdate_eq
  rw [h]
  exact ⟨rfl, (Nat.le_add_right _ _).trans (Nat.le_add_right _ _)⟩

/-- Host time is read at a timer start only. -/
theorem later_handle (sig : Signal) : Later s (s.handle sig) := by
  refine ⟨(frame_handle s sig).cfg, ?_⟩
  cases sig with
  | timerStarted t => cases t <;> exact Nat.le_add_right _ _
  | skipIfPressed k => exact ((frame_skipIf s _).clock (by simp)).ge
  | skipIfNotPressed k => rw [State.handle_skipIfNotPressed]; exact ((frame_skipIf s _).clock (by simp)).ge
  | _ => exact le_rfl

theorem later_pollQuit : Later s s.pollQuit := by
  unfold State.pollQuit
  split
  · exact ⟨rfl, le_rfl⟩
  · exact later_timerUpdate s

theorem later_finishCycle : Later s s.finishCycle := by
  unfold State.finishCycle
  split
  · exact ⟨rfl, le_rfl⟩
  · dsimp only
    split
    · exact later_handle s _
    · exact (later_handle s _).trans (later_pollQuit _)

theorem later_awaitStep (x : Reg) : Later s (s.awaitStep x) := by
  unfold State.awaitStep
  split
  · exact ⟨rfl, le_rfl⟩
  · split <;> exact ⟨rfl, le_rfl⟩

theorem later_executeWord {s t : State} {w : Word} (h : executeWord w s = .next t) : Later s t := by
  rcases executeWord_cases h with ⟨i, c, _, rfl⟩ | ⟨i, _, rfl⟩ | rfl
  · exact ⟨rfl, le_rfl⟩
  · exact (frame_completed s i).later (clock_notin_partsOf i)
  · exact ⟨rfl, le_rfl⟩

end

/-! State that nothing has written -/

/-- Leaving registers, memory and `I` alone keeps unwritten state at its reset value. -/
theorem Frame.unwrittenIsReset {s t : State} {lo : Nat} {ps : List Part} (h : Frame s t [] lo 0 ps)
    (hI : .I ∉ ps) (hs : s.UnwrittenIsReset) : t.UnwrittenIsReset where
  V r hr := by
    obtain ⟨hV, hw⟩ := h.V r (by simp)
    rw [hV, hs.V r (hw ▸ hr)]
  I hw := by
    obtain ⟨hI, hw'⟩ := h.I hI
    rw [hI, hs.I (hw' ▸ hw)]
  mem a ha := by
    obtain ⟨hm, hw⟩ := h.mem a (by omega)
    rw [hm, hs.mem a (hw ▸ ha)]

namespace State.UnwrittenIsReset

variable {s : State} (hs : s.UnwrittenIsReset)
include hs

theorem writeV (x : Reg) (b : Byte) : (s.writeV x b).UnwrittenIsReset where
  V r hr := by
    rw [regWritten_writeV, Bool.or_eq_false_iff, decide_eq_false_iff_not] at hr
    rw [readV_writeV_other _ _ _ _ hr.1, hs.V r hr.2]
  I := hs.I
  mem := hs.mem

theorem loadV (a : Nat) (x : Reg) : (s.loadV a x).UnwrittenIsReset where
  V r hr := by
    rw [regWritten_loadV, Bool.or_eq_false_iff, decide_eq_false_iff_not] at hr
    rw [readV_loadV, if_neg hr.1, hs.V r hr.2]
  I h := (s.loadV_I a x).trans (hs.I (by simpa using h))
  mem z hz := (s.loadV_byte a x z).trans (hs.mem z (by simpa using hz))

theorem writeI (v : Word) : (s.writeI v).UnwrittenIsReset where
  V := hs.V
  I h := by cases h
  mem := hs.mem

theorem storeByte (a : Nat) (b : Byte) : (s.storeByte a b).UnwrittenIsReset := by
  by_cases ha : a < memSize
  · obtain ⟨m, w, h⟩ := s.storeByte_eq a b
    refine ⟨fun r => ?_, ?_, fun z hz => ?_⟩
    · rw [h]; exact hs.V r
    · rw [h]; exact hs.I
    · have hne : z ≠ a := fun e => by
        rw [e, s.byteWritten_storeByte_same a b ha] at hz
        cases hz
      rw [byteWritten_storeByte_other _ _ _ _ hne] at hz
      rw [byte_storeByte_other _ _ _ _ hne, hs.mem z hz]
  · rw [State.storeByte, if_neg ha]
    exact hs

theorem storeBytes (a : Nat) (bs : List Byte) : (s.storeBytes a bs).UnwrittenIsReset := by
  induction bs generalizing s a with
  | nil => exact hs
  | cons b bs ih => exact ih (hs.storeByte a b) (a + 1)

theorem draw (cx ry : Byte) (sprite : List Byte) : (s.draw cx ry sprite).UnwrittenIsReset := by
  unfold State.draw
  dsimp only
  split
  · exact (frame_emit _ _).unwrittenIsReset (by simp)
      (((frame_withFb s _).unwrittenIsReset (by simp) hs).writeV _ _)
  · exact ((frame_withFb s _).comp (frame_emit _ _)).unwrittenIsReset (by simp) hs

theorem completed (i : Instr) : (s.completed i).UnwrittenIsReset := by
  have signal {u : State} (hu : u.UnwrittenIsReset) : u.continued.UnwrittenIsReset :=
    (frame_continued u).unwrittenIsReset (by simp) hu
  cases i with
  | ldImm | addImm | ldReg | orReg | andReg | xorReg | rnd | ldVxDT => exact signal (hs.writeV _ _)
  | addReg | subReg | shr | subn | shl => exact signal ((hs.writeV _ _).writeV _ _)
  | ldI | addI | ldF => exact signal (hs.writeI _)
  | ldB | storeRegs => exact signal (hs.storeBytes _ _)
  | loadRegs => exact signal (hs.loadV _ _)
  | drw => exact signal (hs.draw _ _ _)
  | _ => exact (frame_completed s _).unwrittenIsReset (by simp [partsOf]) hs

theorem handle (sig : Signal) : (s.handle sig).UnwrittenIsReset :=
  (frame_handle s sig).unwrittenIsReset (by simp) hs

theorem timerUpdate : s.timerUpdate.UnwrittenIsReset :=
  (frame_timerUpdate s).unwrittenIsReset (by simp [timerParts]) hs

theorem finishCycle : s.finishCycle.UnwrittenIsReset := by
  unfold State.finishCycle
  split
  · exact hs
  · dsimp only
    split
    · exact hs.handle _
    · exact (frame_pollQuit _).unwrittenIsReset (by simp [timerParts]) (hs.handle _)

theorem awaitStep (x : Reg) : (s.awaitStep x).UnwrittenIsReset := by
  unfold State.awaitStep
  split
  · exact (frame_withMode s _).unwrittenIsReset (by simp) hs
  · split
    · exact hs
    · exact ((frame_advance _).comp (frame_withMode _ _)).unwrittenIsReset (by simp) (hs.writeV _ _)

theorem executeWord {t : State} {w : Word} (h : executeWord w s = .next t) : t.UnwrittenIsReset := by
  rcases executeWord_cases h with ⟨i, c, _, rfl⟩ | ⟨i, _, rfl⟩ | rfl
  · exact (frame_raise s c).unwrittenIsReset (by simp) hs
  · exact hs.completed i
  · exact (frame_unrecognized s w).unwrittenIsReset (by simp) hs

theorem beginStep : s.beginStep.UnwrittenIsReset :=
  (frame_beginStep s).unwrittenIsReset (by simp [stepParts]) hs

theorem endStep : s.endStep.UnwrittenIsReset := (frame_endStep s).unwrittenIsReset (by simp [stepParts]) hs

end State.UnwrittenIsReset

end Sys2Proof.Machine

namespace Sys2Proof.Proofs

open Sys2Proof.Machine

/-- Settles O28: the parameters and host time through each kind of step. -/
theorem stepKeepsParametersAndTime : Obligations.StepKeepsParametersAndTime := by
  unfold Obligations.StepKeepsParametersAndTime
  intro s t h
  have ended (u : State) : Later u u.endStep := (frame_endStep u).later (by simp [stepParts])
  rcases step_cases h with ⟨_, rfl⟩ | ⟨x, _, rfl⟩ | ⟨c, _, _, rfl⟩ | ⟨w, u, _, _, hu, rfl⟩
  · exact (later_timerUpdate s.beginStep).trans (ended _)
  · exact (later_awaitStep s.beginStep x).trans (ended _)
  · exact ended (s.beginStep.raiseAt c s.pc none)
  · exact ((later_executeWord (s := s.entered w) hu).trans (later_finishCycle u)).trans (ended _)

/-- Settles O27: each kind of step is made of operations that mark what they write. -/
theorem stepKeepsUnwrittenAtReset : Obligations.StepKeepsUnwrittenAtReset := by
  unfold Obligations.StepKeepsUnwrittenAtReset
  intro s t hs h
  rcases step_cases h with ⟨_, rfl⟩ | ⟨x, _, rfl⟩ | ⟨c, _, _, rfl⟩ | ⟨w, u, _, _, hu, rfl⟩
  · exact hs.beginStep.timerUpdate.endStep
  · exact (hs.beginStep.awaitStep x).endStep
  · exact ((frame_raiseAt _ _ _ _).unwrittenIsReset (by simp) hs.beginStep).endStep
  · have entered := (frame_entered s w).unwrittenIsReset (by simp) hs
    exact (entered.executeWord hu).finishCycle.endStep

end Sys2Proof.Proofs
end

section
/-! PROOF. The invariant of a run (10_state.md sections 3, 4, 5 and 9, 20_memory.md section 1, 40_cycle.md
sections 1 and 4, 45_timers_keys.md section 4). It is split by what can break a clause: the executor alone
writes memory, `I` and the stack; `pc`, the tone and the anchors pass through the executor, the signal and
the timer update. -/

namespace Sys2Proof.Machine

/-- Without an error no condition of the instruction is met. -/
theorem State.ownCondition_eq_none (s : State) {i : Instr} (he : s.errorOf i = none) :
    s.ownCondition i = none := by
  unfold errorOf at he
  split at he
  case isFalse => cases he
  have hc := (Option.or_eq_none_iff.1 he).1
  unfold conditionOf at hc
  split at hc
  · exact hc
  · cases hc

/-! Memory, `I` and the stack -/

/-- The clauses of the invariant that only the executor can break. -/
structure State.StorageInv (s : State) : Prop where
  mem : Memory.wf s.cfg.font s.mem
  writtenMem : s.written.mem.Pairwise (· < ·) ∧ ∀ a ∈ s.written.mem, a < memSize
  I : s.I.toNat ≤ 0xFFF
  stack : ∀ j : Fin 16, s.stack[j.val].toNat ≤ 0x1000
  bottom : s.stack[0] = 0

/-- The parts that the clauses look at are the same in both states. -/
structure SameStorage (s t : State) : Prop where
  mem : t.mem = s.mem
  written : t.written.mem = s.written.mem
  cfg : t.cfg = s.cfg
  I : t.I = s.I
  stack : t.stack = s.stack

theorem SameStorage.inv {s t : State} (h : SameStorage s t) (hs : s.StorageInv) : t.StorageInv where
  mem := by rw [h.mem, h.cfg]; exact hs.mem
  writtenMem := by rw [h.written]; exact hs.writtenMem
  I := by rw [h.I]; exact hs.I
  stack := by rw [h.stack]; exact hs.stack
  bottom := by simp only [h.stack]; exact hs.bottom

section
variable (s : State)

theorem sameStorage_skipIf (p : Bool) : SameStorage s (s.skipIf p) := by
  cases p <;> exact ⟨rfl, rfl, rfl, rfl, rfl⟩

theorem sameStorage_setST (v : Byte) : SameStorage s (s.setST v) := by
  unfold State.setST
  split <;> exact ⟨rfl, rfl, rfl, rfl, rfl⟩

theorem sameStorage_draw (cx ry : Byte) (sprite : List Byte) : SameStorage s (s.draw cx ry sprite) := by
  unfold State.draw
  dsimp only
  split <;> exact ⟨rfl, rfl, rfl, rfl, rfl⟩

theorem sameStorage_loadV (a : Nat) (x : Reg) : SameStorage s (s.loadV a x) :=
  ⟨by simp, by simp, by simp, by simp, by simp⟩

theorem sameStorage_handle (sig : Signal) : SameStorage s (s.handle sig) := by
  cases sig with
  | timerStarted t => cases t <;> exact ⟨rfl, rfl, rfl, rfl, rfl⟩
  | skipIfPressed k => exact sameStorage_skipIf s _
  | skipIfNotPressed k => rw [State.handle_skipIfNotPressed]; exact sameStorage_skipIf s _
  | _ => exact ⟨rfl, rfl, rfl, rfl, rfl⟩

theorem sameStorage_timerUpdate : SameStorage s s.timerUpdate := by
  obtain ⟨d, a, d', a', o, e, h⟩ := s.timerUpdate_eq
  rw [h]
  exact ⟨rfl, rfl, rfl, rfl, rfl⟩

theorem sameStorage_endStep : SameStorage s s.endStep := by
  obtain ⟨p, r, n, h⟩ := s.endStep_eq
  rw [h]
  exact ⟨rfl, rfl, rfl, rfl, rfl⟩

end

namespace State.StorageInv

variable {s : State} (hs : s.StorageInv)
include hs

theorem storeByte (a : Nat) (b : Byte) : (s.storeByte a b).StorageInv := by
  by_cases ha : a < memSize
  · rw [State.storeByte, if_pos ha]
    obtain ⟨hr, hw⟩ := hs.writtenMem
    refine ⟨Memory.write_wf _ _ _ ha hs.mem, ⟨addAddr_rising a _ hr, fun z hz => ?_⟩, hs.I, hs.stack, hs.bottom⟩
    rcases (mem_addAddr a z _).1 hz with rfl | hz
    · exact ha
    · exact hw z hz
  · rw [State.storeByte, if_neg ha]
    exact hs

theorem storeBytes (a : Nat) (bs : List Byte) : (s.storeBytes a bs).StorageInv := by
  induction bs generalizing s a with
  | nil => exact hs
  | cons b bs ih => exact ih (hs.storeByte a b) (a + 1)

theorem writeI {v : Word} (h : v.toNat ≤ 0xFFF) : (s.writeI v).StorageInv :=
  ⟨hs.mem, hs.writtenMem, h, hs.stack, hs.bottom⟩

/-- A push below the limit writes an entry that is not the bottom one (10_state.md R27). -/
theorem push {v : Word} (hv : v.toNat ≤ 0x1000) (hsp : s.sp ≠ 15) : (s.push v).StorageInv := by
  refine ⟨hs.mem, hs.writtenMem, hs.I, fun j => ?_, ?_⟩
  · rw [push_stack, Vector.getElem_set]
    split
    · exact hv
    · exact hs.stack j
  · have hne : (s.sp + 1 : Fin 16).val ≠ 0 := fun e => s.push_sp_ne_zero v hsp (Fin.ext e)
    simp only [push_stack]
    rw [Vector.getElem_set_ne _ _ hne]
    exact hs.bottom

/-- An instruction that meets no error keeps these clauses, where the advanced `pc` is the end of a fetched
word. -/
theorem completed (i : Instr) (hpc : s.pc.toNat ≤ 0x1000) (he : s.errorOf i = none) :
    (s.completed i).StorageInv := by
  have signal {u : State} (hu : u.StorageInv) : u.continued.StorageInv :=
    SameStorage.inv (s := u) ⟨rfl, rfl, rfl, rfl, rfl⟩ hu
  have own := s.ownCondition_eq_none he
  cases i with
  | call nnn =>
    have hsp : s.sp ≠ 15 := fun h => by simp [ownCondition, h] at own
    exact SameStorage.inv (s := s.push s.pc) ⟨rfl, rfl, rfl, rfl, rfl⟩ (hs.push hpc hsp)
  | ldI nnn => exact signal (hs.writeI (by rw [zext16_addr_toNat]; omega))
  | addI x =>
    have hsum : ¬ 0xFFF < (s.I + zext16 (s.readV x)).toNat := fun h => by
      simp only [ownCondition, if_pos h] at own; cases own
    exact signal (hs.writeI (Nat.not_lt.1 hsum))
  | ldF x => exact signal (hs.writeI (by rw [glyphAddr_toNat]; omega))
  | ldB x | storeRegs x => exact signal (hs.storeBytes _ _)
  | loadRegs x => exact signal ((sameStorage_loadV s _ x).inv hs)
  | drw x y n => exact signal ((sameStorage_draw s _ _ _).inv hs)
  | ldSTVx x =>
    exact SameStorage.inv (s := s.setST _) ⟨rfl, rfl, rfl, rfl, rfl⟩ ((sameStorage_setST s _).inv hs)
  | seImm x kk | sneImm x kk | seReg x y | sneReg x y => exact signal ((sameStorage_skipIf s _).inv hs)
  | _ => exact SameStorage.inv (s := s) ⟨rfl, rfl, rfl, rfl, rfl⟩ hs

end State.StorageInv

/-! Timers -/

/-- The clauses on the tone and the anchors. -/
structure State.TimersInv (s : State) : Prop where
  tone : s.toneOn = true ↔ s.ST ≠ 0
  anchorDT : s.anchorDT ≤ s.clock
  anchorST : s.anchorST ≤ s.clock

theorem State.TimersInv.timerUpdate {s : State} (hs : s.TimersInv) : s.timerUpdate.TimersInv := by
  have later : s.clock ≤ s.decay.clock := (Nat.le_add_right _ _).trans (Nat.le_add_right _ _)
  have anchorDT : s.decay.anchorDT ≤ s.decay.clock := by
    unfold decay
    dsimp only
    split
    · exact Nat.le_add_right _ _
    · exact hs.anchorDT.trans later
  have anchorST : s.decay.anchorST ≤ s.decay.clock := by
    unfold decay
    dsimp only
    split
    · exact le_rfl
    · exact hs.anchorST.trans later
  have zero : s.decay.ST = 0 ↔ s.ST.toNat ≤ s.soundTicks := decayed_eq_zero_iff _ _
  by_cases h : s.ToneStops
  · rw [s.timerUpdate_of_toneStops h]
    exact ⟨by simp [zero.2 h.2], anchorDT, anchorST⟩
  · rw [s.timerUpdate_of_not_toneStops h]
    refine ⟨hs.tone.trans ⟨fun hST hz => h ⟨hST, zero.1 hz⟩, fun hd hST => hd (zero.2 ?_)⟩, anchorDT, anchorST⟩
    rw [hST]
    exact Nat.zero_le _

/-- The clauses on the tone and the anchors before the signal `sig` is handled: the start of the sound
timer, which sounds the tone, may still be due. -/
structure State.TimersDue (s : State) (sig : Signal) : Prop where
  tone : sig ≠ .timerStarted .sound → (s.toneOn = true ↔ s.ST ≠ 0)
  due : sig = .timerStarted .sound → s.ST ≠ 0
  anchorDT : s.anchorDT ≤ s.clock
  anchorST : s.anchorST ≤ s.clock

theorem State.TimersInv.due {s : State} (hs : s.TimersInv) {sig : Signal} (h : sig ≠ .timerStarted .sound) :
    s.TimersDue sig :=
  ⟨fun _ => hs.tone, fun e => absurd e h, hs.anchorDT, hs.anchorST⟩

/-- An operation that leaves the timers alone keeps their clauses. -/
theorem Frame.timersInv {s t : State} {vs : List Reg} {lo len : Nat} {ps : List Part} 
    (h : Frame s t vs lo len ps) (hp : ∀ p ∈ [.ST, .anchorDT, .anchorST, .toneOn, .clock], p ∉ ps)
    (hs : s.TimersInv) : t.TimersInv where
  tone := by rw [h.toneOn (hp _ (by simp)), h.ST (hp _ (by simp))]; exact hs.tone
  anchorDT := by rw [h.anchorDT (hp _ (by simp)), h.clock (hp _ (by simp))]; exact hs.anchorDT
  anchorST := by rw [h.anchorST (hp _ (by simp)), h.clock (hp _ (by simp))]; exact hs.anchorST

/-- A set of ST leaves the tone right, or its start due. -/
theorem State.TimersInv.setST {s : State} (hs : s.TimersInv) (v : Byte) :
    (s.setST v).TimersDue (if v ≠ 0 then .timerStarted .sound else .cont) := by
  by_cases hv : v = 0
  · rw [if_neg (not_not.2 hv)]
    refine TimersInv.due ?_ (by simp)
    by_cases hST : s.ST = 0
    · rw [State.setST, if_neg fun h => h.2 hST, hv, ← hST]
      exact hs
    · rw [s.setST_of_running hv hST]
      exact ⟨by simp [hv], hs.anchorDT, hs.anchorST⟩
  · rw [if_pos hv, State.setST, if_neg fun h => hv h.1]
    exact ⟨fun h => absurd rfl h, fun _ => hv, hs.anchorDT, hs.anchorST⟩

/-- Only Fx18 starts the sound timer. -/
theorem State.signalOf_ne_startSound (s : State) {i : Instr} (h : ∀ x, i ≠ .ldSTVx x) :
    s.signalOf i ≠ .timerStarted .sound := by
  cases i with
  | ldSTVx x => exact absurd rfl (h x)
  | jp nnn | ldDTVx x => simp only [signalOf]; split <;> simp
  | _ => simp [signalOf]

theorem State.TimersInv.completed {s : State} (hs : s.TimersInv) (i : Instr) :
    (s.completed i).TimersDue (s.signalOf i) := by
  cases i with
  | ldSTVx x =>
    obtain ⟨tone, due, anchorDT, anchorST⟩ := hs.setST (s.readV x)
    exact ⟨tone, due, anchorDT, anchorST⟩
  | _ =>
    exact ((frame_completed s _).timersInv (by simp [partsOf]) hs).due (s.signalOf_ne_startSound (by simp))

/-- Handling the signal starts the tone where its start is due. -/
theorem State.TimersDue.handle {s : State} {sig : Signal} (hs : s.TimersDue sig) :
    (s.handle sig).TimersInv := by
  obtain ⟨tone, due, anchorDT, anchorST⟩ := hs
  cases sig with
  | timerStarted t =>
    cases t with
    | delay => exact ⟨tone (by simp), le_rfl, anchorST.trans (Nat.le_add_right _ _)⟩
    | sound => exact ⟨⟨fun _ => due rfl, fun _ => rfl⟩, anchorDT.trans (Nat.le_add_right _ _), le_rfl⟩
  | skipIfPressed k =>
    exact (frame_skipIf s _).timersInv (by simp) ⟨tone (by simp), anchorDT, anchorST⟩
  | skipIfNotPressed k =>
    rw [handle_skipIfNotPressed]
    exact (frame_skipIf s _).timersInv (by simp) ⟨tone (by simp), anchorDT, anchorST⟩
  | _ => exact ⟨tone (by simp), anchorDT, anchorST⟩

/-! The program counter -/

/-- The clauses on `pc`. -/
structure State.PcInv (s : State) : Prop where
  pc : s.pc.toNat ≤ 0x10FE
  waiting : ∀ x, s.mode = .awaitingKey x → s.pc.toNat ≤ 0xFFE

/-- Where `pc` may stand when a signal is returned: a wait is rewound to A, a key skip is at A + 2, and the
greatest target is that of Bnnn. -/
def Signal.pcBound : Signal → Nat
  | .awaitKey _ => 0xFFE
  | .skipIfPressed _ | .skipIfNotPressed _ => 0x1000
  | _ => 0x10FE

theorem State.skipIf_pc_le {s : State} {n : Nat} (h : s.pc.toNat ≤ n) (p : Bool) :
    (s.skipIf p).pc.toNat ≤ n + 2 := by
  rw [skipIf_pc]
  split
  · rw [BitVec.toNat_add]
    exact (Nat.mod_le _ _).trans (Nat.add_le_add_right h 2)
  · omega

/-- An instruction leaves `pc` within the bound of the signal it returns. -/
theorem State.completed_pc_le {s : State} (hs : s.StorageInv) (hpc : s.pc.toNat ≤ 0x1000)
    (hA : s.instrAddr.toNat ≤ 0xFFE) (i : Instr) : (s.completed i).pc.toNat ≤ (s.signalOf i).pcBound := by
  have within {n : Nat} (h : n ≤ 0x10FE) : n ≤ Signal.cont.pcBound := h
  cases i with
  | jp nnn =>
    have target : (zext16 nnn).toNat ≤ 0x10FE := by rw [zext16_addr_toNat]; omega
    simp only [signalOf]
    split <;> exact target
  | call nnn =>
    have target : (zext16 nnn).toNat ≤ 0x10FE := by rw [zext16_addr_toNat]; omega
    exact target
  | jpV0 nnn =>
    have target : (zext16 nnn + zext16 (s.readV 0)).toNat ≤ 0x10FE := by rw [zext16_add_toNat]; omega
    exact target
  | ret => exact within ((hs.stack s.sp).trans (by decide))
  | seImm x kk | sneImm x kk | seReg x y | sneReg x y => exact within ((skipIf_pc_le hpc _).trans (by decide))
  | ldVxK x => exact hA
  | skp x | sknp x => exact hpc
  | ldDTVx x | ldSTVx x =>
    rw [(frame_completed s _).pc (by simp [partsOf])]
    simp only [signalOf]
    split <;> exact hpc.trans (by decide)
  | _ =>
    rw [(frame_completed s _).pc (by simp [partsOf])]
    exact within (hpc.trans (by decide))

theorem State.handle_pcInv {s : State} {sig : Signal} (hm : s.mode = .running) (h : s.pc.toNat ≤ sig.pcBound) :
    (s.handle sig).PcInv := by
  have running (hmode : (s.handle sig).mode = .running) (hpc : (s.handle sig).pc.toNat ≤ 0x10FE) :
      (s.handle sig).PcInv := ⟨hpc, fun x hx => by rw [hmode] at hx; cases hx⟩
  cases sig with
  | awaitKey x => exact ⟨h.trans (by simp [Signal.pcBound]), fun _ _ => h⟩
  | halt => exact ⟨h, fun x hx => by cases hx⟩
  | skipIfPressed k =>
    exact running (by rw [handle_mode]; exact hm) ((skipIf_pc_le h _).trans (by simp [Signal.pcBound]))
  | skipIfNotPressed k =>
    refine running (by rw [handle_mode]; exact hm) ?_
    rw [handle_skipIfNotPressed]
    exact (skipIf_pc_le h _).trans (by simp [Signal.pcBound])
  | timerStarted t => cases t <;> exact running hm h
  | cont => exact running hm h

/-! The whole invariant through a step -/

/-- The invariant of a run but for the fetched word and the signal, which the end of the step drops. -/
structure State.CycleInv (s : State) : Prop where
  storage : s.StorageInv
  timers : s.TimersInv
  pc : s.PcInv

namespace State.CycleInv

variable {s : State}

theorem of_inv (h : s.Inv) : s.CycleInv where
  storage := ⟨h.mem, h.writtenMem, h.I, h.stack, h.bottom⟩
  timers := ⟨h.tone, h.anchorDT, h.anchorST⟩
  pc := ⟨h.pc, h.waiting⟩

theorem endStep (h : s.CycleInv) : s.endStep.Inv := by
  obtain ⟨mem, writtenMem, I, stack, bottom⟩ := (sameStorage_endStep s).inv h.storage
  obtain ⟨tone, anchorDT, anchorST⟩ := (frame_endStep s).timersInv (by simp [stepParts]) h.timers
  obtain ⟨p, r, n, he⟩ := s.endStep_eq
  refine ⟨mem, writtenMem, I, ?_, ?_, stack, bottom, tone, anchorDT, anchorST, by rw [he], by rw [he]⟩
  · rw [endStep_pc]; exact h.pc.pc
  · rw [endStep_mode, endStep_pc]; exact h.pc.waiting

theorem beginStep (h : s.CycleInv) : s.beginStep.CycleInv where
  storage := SameStorage.inv (s := s) ⟨rfl, rfl, rfl, rfl, rfl⟩ h.storage
  timers := (frame_beginStep s).timersInv (by simp [stepParts]) h.timers
  pc := ⟨h.pc.pc, h.pc.waiting⟩

theorem timerUpdate (h : s.CycleInv) : s.timerUpdate.CycleInv where
  storage := (sameStorage_timerUpdate s).inv h.storage
  timers := h.timers.timerUpdate
  pc := by
    refine ⟨?_, ?_⟩
    · rw [timerUpdate_pc]; exact h.pc.pc
    · rw [timerUpdate_mode, timerUpdate_pc]; exact h.pc.waiting

/-- A mode that waits for no key keeps every clause. -/
theorem withMode (h : s.CycleInv) {m : Mode} (hm : ∀ x, m ≠ .awaitingKey x) :
    { s with mode := m }.CycleInv where
  storage := SameStorage.inv (s := s) ⟨rfl, rfl, rfl, rfl, rfl⟩ h.storage
  timers := (frame_withMode s m).timersInv (by simp) h.timers
  pc := ⟨h.pc.pc, fun x hx => absurd hx (hm x)⟩

theorem raiseAt (h : s.CycleInv) (c : ErrorCode) (a : Word) (w : Option Word) : (s.raiseAt c a w).CycleInv where
  storage := SameStorage.inv (s := s) ⟨rfl, rfl, rfl, rfl, rfl⟩ h.storage
  timers := (frame_raiseAt s c a w).timersInv (by simp) h.timers
  pc := ⟨h.pc.pc, fun x hx => by cases hx⟩

theorem pollQuit (h : s.CycleInv) : s.pollQuit.CycleInv := by
  unfold State.pollQuit
  split
  · exact h.withMode (by simp)
  · exact h.timerUpdate

theorem awaitStep (h : s.CycleInv) {x : Reg} (hm : s.mode = .awaitingKey x) : (s.awaitStep x).CycleInv := by
  have hpc := h.pc.waiting x hm
  unfold State.awaitStep
  split
  · exact h.withMode (by simp)
  split
  · exact h
  · refine ⟨SameStorage.inv (s := s) ⟨rfl, rfl, rfl, rfl, rfl⟩ h.storage,
      ⟨h.timers.tone, h.timers.anchorDT, h.timers.anchorST⟩, ?_, fun x hx => by cases hx⟩
    exact (skipIf_pc_le hpc true).trans (by decide)

/-- The cycle of a returned signal. -/
theorem finishCycle {sig : Signal} (hm : s.mode = .running) (hsig : s.signal = some sig)
    (storage : s.StorageInv) (timers : s.TimersDue sig) (pc : s.pc.toNat ≤ sig.pcBound) :
    s.finishCycle.CycleInv := by
  have handled : (s.handle sig).CycleInv :=
    ⟨(sameStorage_handle s sig).inv storage, timers.handle, handle_pcInv hm pc⟩
  by_cases hs : sig = .halt
  · subst hs
    rw [finishCycle_of_halt hsig]
    exact handled
  · rw [finishCycle_of_signal hm hsig hs]
    exact handled.pollQuit

/-- A cycle that executed a word, from the state after its fetch. -/
theorem of_executeWord {u : State} {w : Word} (h : s.CycleInv) (hm : s.mode = .running) (hsig : s.signal = none)
    (hpc : s.pc.toNat ≤ 0x1000) (hA : s.instrAddr.toNat ≤ 0xFFE) (hu : executeWord w s = .next u) :
    u.finishCycle.CycleInv := by
  rcases executeWord_cases hu with ⟨i, c, _, rfl⟩ | ⟨i, he, rfl⟩ | rfl
  · rw [finishCycle_of_error (s := s.raise c) hsig]
    exact h.raiseAt c _ _
  · exact finishCycle ((s.completed_mode i).trans hm) (s.completed_signal i) (h.storage.completed i hpc he)
      (h.timers.completed i) (completed_pc_le h.storage hpc hA i)
  · exact finishCycle hm rfl (SameStorage.inv (s := s) ⟨rfl, rfl, rfl, rfl, rfl⟩ h.storage)
      (((frame_unrecognized s w).timersInv (by simp) h.timers).due (by simp)) h.pc.pc

end State.CycleInv

end Sys2Proof.Machine

namespace Sys2Proof.Proofs

open Sys2Proof.Machine

/-- Settles O26: the split invariant through each kind of step. A fetched word lies in memory, so the
advanced `pc` is at most 0x1000. -/
theorem stepKeepsInvariant : Obligations.StepKeepsInvariant := by
  unfold Obligations.StepKeepsInvariant
  intro s t hs h
  have inv := State.CycleInv.of_inv hs
  rcases step_cases h with ⟨_, rfl⟩ | ⟨x, hm, rfl⟩ | ⟨c, _, _, rfl⟩ | ⟨w, u, hm, hf, hu, rfl⟩
  · exact inv.beginStep.timerUpdate.endStep
  · exact (inv.beginStep.awaitStep hm).endStep
  · exact (inv.beginStep.raiseAt c s.pc none).endStep
  · have hA := s.pc_le_of_fetch hf
    have hpc : (s.entered w).pc.toNat ≤ 0x1000 := State.skipIf_pc_le hA true
    have entered : (s.entered w).CycleInv :=
      ⟨SameStorage.inv (s := s) ⟨rfl, rfl, rfl, rfl, rfl⟩ inv.storage,
        (frame_entered s w).timersInv (by simp) inv.timers, hpc.trans (by decide),
        fun x hx => by rw [State.entered_mode, hm] at hx; cases hx⟩
    exact (entered.of_executeWord hm rfl hpc (by rwa [State.entered_instrAddr]) hu).endStep

end Sys2Proof.Proofs
end
